-- ==== Sys2Proof/Word.lean ====
section
/-! DEFINITION. The value types of the NEC IR codec: frame words, transmit items, the agents, and the words of its encodings
(spec/00_scope.md R11 to R18, spec/30_encoding.md R70). Durations and time stamps, in µs, are natural numbers without bound
(R11, R51, R220). -/

namespace Sys2Proof

/-- One 8-bit field of a frame word (R71). -/
abbrev Byte := BitVec 8

/-- A frame word, 32 bits, bit 31 the most significant (R12, R71). -/
abbrev Frame := BitVec 32

/-- One element of the encoder's output list (R16). -/
inductive Item where
  /-- A segment: carrier on (a mark) or off (a space) for a duration. -/
  | seg (on : Bool) (dur : Nat)
  /-- One of the encoder's waits; it is not counted as a segment (R176). -/
  | gap (dur : Nat)
deriving DecidableEq, Repr

/-- `mark(d)` of R16: the carrier is on. -/
abbrev Item.mark (d : Nat) : Item := .seg true d

/-- `space(d)` of R16: the carrier is off. -/
abbrev Item.space (d : Nat) : Item := .seg false d

/-- The symbols of the receive line code (R74), with the lead-in (R132). -/
inductive RxSymbol where
  | leadIn | hdrMark | hdrSpace | rptSpace | bitMark | oneSpace | zeroSpace
deriving DecidableEq, Repr

/-- Why DECODE answers `None` (R141). The labels are no output of the block (R222). -/
inductive NoneReason where
  | short | repeatRejected | badHdrMark | badHdrSpace | shortFrame
  | badBitMark (i : Nat) | badBitSpace (i : Nat)
deriving DecidableEq, Repr

/-- The reason an `EncodeError` carries to the caller of PARSE_HEX (R170, R222). The labels are no output (D20). -/
inductive EncodeReason where
  | badLength | badDigit
deriving DecidableEq, Repr

/-- The agents that request operations (R18, R231), with the dispatch collaborator and the test harness of R203. -/
inductive Agent where
  | capture | polling | transmit | platform | dispatch | harness
deriving DecidableEq, Repr

/-- What SEND is asked to send: `text` or `F` (R204). -/
inductive SendCode where
  | text (t : List Char)
  | frame (f : Frame)
deriving DecidableEq, Repr

/-- One operand of an operation tuple: a number (stamp, duration, count, level, frame word), a pulse
sequence or a text (the tuple convention of spec/95_test_vectors.md; log entry 1). -/
inductive Operand where
  | num (n : Nat)
  | seq (s : List Nat)
  | text (t : List Char)
deriving DecidableEq, Repr

/-- A word of one of the block's encodings; the constructors are the formats of the opcode table
(log entry 2). -/
inductive CodeWord where
  /-- Format OP: the 4-bit operation number and the operands (R83). -/
  | op (number : BitVec 4) (operands : List Operand)
  /-- Format NEC32: a frame word (R71). -/
  | nec32 (word : Frame)
  /-- Format HEX8: a hex text (R72). -/
  | hex8 (text : List Char)
  /-- Format RXSYM: a measured duration at a position counted after the lead-in (R74). -/
  | rxSym (position : Nat) (d : Nat)
  /-- Format RXFRAME: a received pulse sequence (R75). -/
  | rxFrame (s : List Nat)
  /-- Format TXSYM: the items of one transmit symbol (R78). -/
  | txSym (items : List Item)
  /-- Format TXFRAME: a whole transmit output (R173). -/
  | txFrame (items : List Item)
  /-- Format RESULT: a 2-bit result tag and, for `Command`, its frame (R83). -/
  | result (tag : BitVec 2) (payload : Option Frame)
  /-- Format CAUSE: a 3-bit cause code (R221). -/
  | cause (code : BitVec 3)
deriving DecidableEq, Repr

end Sys2Proof
end

