-- ==== Sys2Proof/Config.lean ====
section
/-! DEFINITION. The constants of the block as one configuration record (spec/00_scope.md R7, R8). No operation
writes any of them. The parameters that stay open (`T0`, `IDLE_LEVEL`) are an operand and a field of the state. -/

namespace Sys2Proof

/-- The constants of R7, durations in µs. -/
structure Config where
  noiseMinUs : Nat
  cap : Nat
  readyGapUs : Nat
  readyGapMinLen : Nat
  readyFullLen : Nat
  timeoutUs : Nat
  timeoutMinLen : Nat
  leadInUs : Nat
  rxHdrMark : Nat
  rxHdrSpace : Nat
  rxRptSpace : Nat
  rxBitMark : Nat
  rxOneSpace : Nat
  rxZeroSpace : Nat
  tolUs : Nat
  nbits : Nat
  repeatDelayUs : Nat
  repeatFactor : Nat
  txHdrMark : Nat
  txHdrSpace : Nat
  txBitMark : Nat
  txOneSpace : Nat
  txZeroSpace : Nat
  txStopSpace : Nat
  txRptSpace : Nat
  txGapUs : Nat
deriving DecidableEq, Repr

/-- The values of R7, transcribed from its table. -/
abbrev Config.nec : Config where
  noiseMinUs := 100
  cap := 100
  readyGapUs := 30000
  readyGapMinLen := 30
  readyFullLen := 67
  timeoutUs := 70000
  timeoutMinLen := 10
  leadInUs := 20000
  rxHdrMark := 9000
  rxHdrSpace := 4500
  rxRptSpace := 2250
  rxBitMark := 562
  rxOneSpace := 1688
  rxZeroSpace := 562
  tolUs := 400
  nbits := 32
  repeatDelayUs := 150000
  repeatFactor := 3
  txHdrMark := 9000
  txHdrSpace := 4500
  txBitMark := 560
  txOneSpace := 1690
  txZeroSpace := 560
  txStopSpace := 0
  txRptSpace := 2250
  txGapUs := 40000

/-- `REPEAT_WINDOW_US = REPEAT_FACTOR × REPEAT_DELAY_US` (R8). -/
abbrev Config.repeatWindowUs (c : Config) : Nat := c.repeatFactor * c.repeatDelayUs

end Sys2Proof
end

