-- ==== Sys2Proof/Machine/Operands.lean ====
section
/-! DEFINITION. What operands and words spell, as functions on plain values: the tolerance test and the bounded
reads of a pulse sequence, the layouts of received frames, the fields of a frame word, hex text, and the items of
the transmit line code (spec/30_encoding.md R70 to R79, spec/41_decoder.md R130 to R137, spec/42_encoder.md). -/

namespace Sys2Proof.Machine

/-! ### Received pulses -/

/-- `match(d, e) = (e − 400 ≤ d) and (d ≤ e + 400)`, both bounds included (R130, R15); written without subtraction,
so it is exact for every `e`. -/
def matchUs (d e : Nat) : Bool :=
  decide (e ≤ d + Config.nec.tolUs) && decide (d ≤ e + Config.nec.tolUs)

/-- `MemRead(s, i)`: the bounded read, none when out of bounds (R13, R57). -/
def memRead (s : List Nat) (i : Nat) : Option Nat := s[i]?

/-- The pulse at position `k` is there and matches `e`. -/
def readsAs (p : List Nat) (k : Nat) (e : Nat) : Bool :=
  match memRead p k with
  | some d => matchUs d e
  | none => false

/-- A pulse that step 1 of DECODE takes for idle-line lead-in (R132). -/
def isLeadIn (d : Nat) : Bool := decide (Config.nec.leadInUs < d)

/-- Step 1 of DECODE: a first pulse above 20000 is discarded, once (R132). -/
def dropLeadIn (s : List Nat) : List Nat :=
  match s with
  | [] => []
  | d :: rest => if isLeadIn d then rest else d :: rest

/-- The four tests of step 3 (R134); the length test is implied by the bounded read at position 2. -/
def isRepeatShaped (p : List Nat) : Bool :=
  readsAs p 0 Config.nec.rxHdrMark && decide (3 ≤ p.length) && readsAs p 1 Config.nec.rxRptSpace
    && readsAs p 2 Config.nec.rxBitMark

/-- The bit a space spells: the one-space is tested first (R137). -/
def bitOfSpace (d : Nat) : Option Bool :=
  if matchUs d Config.nec.rxOneSpace then some true
  else if matchUs d Config.nec.rxZeroSpace then some false
  else none

/-- Position of the mark of bit `i` (R31, R57). -/
def markPos (i : Nat) : Nat := 2 + 2 * i

/-- Position of the space of bit `i` (R31, R57). -/
def spacePos (i : Nat) : Nat := 3 + 2 * i

/-- Bit `i` of a standard frame, or the reason it spells none (R137). -/
def readBit (p : List Nat) (i : Nat) : Except NoneReason Bool :=
  if readsAs p (markPos i) Config.nec.rxBitMark then
    match (memRead p (spacePos i)).bind bitOfSpace with
    | some b => .ok b
    | none => .error (.badBitSpace i)
  else .error (.badBitMark i)

/-- `(v << 1) | b` on 32 bits (R76). -/
def shiftIn (v : Frame) (b : Bool) : Frame := (v <<< 1) ||| (BitVec.ofBool b).setWidth 32

/-- The loop of step 6: `left` bits from bit `i` on, `v` so far (R137). -/
def readBits (p : List Nat) (left i : Nat) (v : Frame) : Except NoneReason Frame :=
  match left with
  | 0 => .ok v
  | left + 1 =>
    match readBit p i with
    | .ok b => readBits p left (i + 1) (shiftIn v b)
    | .error r => .error r

/-- Fewest pulses of a standard frame: header and 64 more (R136). -/
def standardLength : Nat := 2 + 2 * Config.nec.nbits

/-- Steps 4 to 6 of DECODE on the pulses after the lead-in: the frame they spell, or why they spell none
(R135 to R137). -/
def standardFrame (p : List Nat) : Except NoneReason Frame :=
  if !readsAs p 0 Config.nec.rxHdrMark then .error .badHdrMark
  else if !readsAs p 1 Config.nec.rxHdrSpace then .error .badHdrSpace
  else if p.length < standardLength then .error .shortFrame
  else readBits p Config.nec.nbits 0 0

/-- A raw pulse sequence has the standard layout of R75. -/
def isStandardFrame (s : List Nat) : Bool :=
  match standardFrame (dropLeadIn s) with
  | .ok _ => true
  | .error _ => false

/-- A raw pulse sequence has the repeat layout of R75. -/
def isRepeatFrame (s : List Nat) : Bool := isRepeatShaped (dropLeadIn s)

/-- The duration `d` spells the receive symbol (R74, R132). -/
def spellsSymbol (sym : RxSymbol) (d : Nat) : Bool :=
  match sym with
  | .leadIn => isLeadIn d
  | .hdrMark => matchUs d Config.nec.rxHdrMark
  | .hdrSpace => matchUs d Config.nec.rxHdrSpace
  | .rptSpace => matchUs d Config.nec.rxRptSpace
  | .bitMark => matchUs d Config.nec.rxBitMark
  | .oneSpace => matchUs d Config.nec.rxOneSpace
  | .zeroSpace => matchUs d Config.nec.rxZeroSpace

/-! ### The frame word -/

/-- `F[31:24]` (R71). -/
def frameAddr (f : Frame) : Byte := f.extractLsb' 24 8

/-- `F[23:16]` (R71). -/
def frameNaddr (f : Frame) : Byte := f.extractLsb' 16 8

/-- `F[15:8]` (R71). -/
def frameCmd (f : Frame) : Byte := f.extractLsb' 8 8

/-- `F[7:0]` (R71). -/
def frameNcmd (f : Frame) : Byte := f.extractLsb' 0 8

/-- Bit `i` in line order, `F[31 − i]` (R71). -/
def lineBit (f : Frame) (i : Nat) : Bool := f.getLsbD (31 - i)

/-! ### Hex text -/

/-- The value of a hexadecimal digit of either case (R72, R170). -/
def digitValue (c : Char) : Option Nat :=
  let n := c.toNat
  if 48 ≤ n ∧ n ≤ 57 then some (n - 48)
  else if 65 ≤ n ∧ n ≤ 70 then some (n - 55)
  else if 97 ≤ n ∧ n ≤ 102 then some (n - 87)
  else none

/-- The upper-case digit of a 4-bit value (R72, R171). -/
def hexDigit (v : BitVec 4) : Char :=
  if v.toNat < 10 then Char.ofNat (48 + v.toNat) else Char.ofNat (55 + v.toNat)

/-- `F <- (F << 4) | digit(text[c])` over the text, left to right (R170). -/
def foldDigits (text : List Char) (f : Frame) : Except EncodeReason Frame :=
  match text with
  | [] => .ok f
  | c :: rest =>
    match digitValue c with
    | some n => foldDigits rest ((f <<< 4) ||| BitVec.ofNat 32 n)
    | none => .error .badDigit

/-- PARSE_HEX as a function: the length first, then the digits (R170). -/
def parseText (text : List Char) : Except EncodeReason Frame :=
  if text.length = 8 then foldDigits text 0 else .error .badLength

/-- Step 1 of SEND: PARSE_HEX of the text, with its reason carried to SEND (R178, R222); an input that is already a 32-bit word
"has no failure case" (R178, R204). -/
def sendFrame (code : SendCode) : Except EncodeReason Frame :=
  match code with
  | .text t => parseText t
  | .frame f => .ok f

/-- The text is the spelling of some frame word (R72). -/
def isHexText (text : List Char) : Bool :=
  match parseText text with
  | .ok _ => true
  | .error _ => false

/-- Character `c` of the canonical text: the digit of `F[31 − 4c : 28 − 4c]` (R171). -/
def textDigit (f : Frame) (c : Nat) : Char := hexDigit (f.extractLsb' (28 - 4 * c) 4)

/-- FORMAT_HEX as a function (R171). -/
def formatText (f : Frame) : List Char := (List.range 8).map (textDigit f)

/-! ### Transmitted items -/

/-- Header symbol (R78). -/
def headerItems : List Item := [.mark Config.nec.txHdrMark, .space Config.nec.txHdrSpace]

/-- The symbol of a 1 bit (R78). -/
def oneItems : List Item := [.mark Config.nec.txBitMark, .space Config.nec.txOneSpace]

/-- The symbol of a 0 bit (R78). -/
def zeroItems : List Item := [.mark Config.nec.txBitMark, .space Config.nec.txZeroSpace]

/-- The symbol of one bit (R173 step 2). -/
def bitItems (b : Bool) : List Item := if b then oneItems else zeroItems

/-- Stop symbol (R78). -/
def stopItems : List Item := [.mark Config.nec.txBitMark, .space Config.nec.txStopSpace]

/-- Repeat frame symbol (R78). -/
def repeatFrameItems : List Item :=
  [.mark Config.nec.txHdrMark, .space Config.nec.txRptSpace, .mark Config.nec.txBitMark,
    .space Config.nec.txStopSpace]

/-- Wait symbol (R78). -/
def waitItems : List Item := [.gap Config.nec.txGapUs]

/-- Step 2 of ENCODE: `left` bits from line position `i` on (R173). -/
def bitsItems (f : Frame) (left i : Nat) : List Item :=
  match left with
  | 0 => []
  | left + 1 => bitItems (lineBit f i) ++ bitsItems f left (i + 1)

/-- Step 5 of ENCODE: `n` repeats of wait, repeat frame, wait (R173, R175). -/
def repeatItems (n : Nat) : List Item :=
  match n with
  | 0 => []
  | n + 1 => waitItems ++ repeatFrameItems ++ waitItems ++ repeatItems n

/-- Steps 1 to 3 of ENCODE: the 68 segments of the frame (R173, R174). -/
def frameItems (f : Frame) : List Item :=
  headerItems ++ bitsItems f Config.nec.nbits 0 ++ stopItems

/-- The item list of `ENCODE(F, n)` (R173). -/
def encodeItems (f : Frame) (n : Nat) : List Item := frameItems f ++ waitItems ++ repeatItems n

/-- The duration of an item. -/
def itemDur (x : Item) : Nat :=
  match x with
  | .seg _ d => d
  | .gap d => d

/-- An item is a segment, not a gap (R176). -/
def isSegment (x : Item) : Bool :=
  match x with
  | .seg _ _ => true
  | .gap _ => false

/-- Nominal time of an item list (R176). -/
def nominalTime (l : List Item) : Nat := (l.map itemDur).sum

/-- The pulses a receiver that sees the segments exactly gets: the non-zero durations (R110, R144). -/
def loopbackPulses (l : List Item) : List Nat := (l.map itemDur).filter (fun d => d ≠ 0)

/-- The frame the spaces of an item list spell: bit `i` is 1 when the item at `3 + 2i` is the space of a 1
(R177, read backwards). -/
def frameOfItems (l : List Item) (left i : Nat) (v : Frame) : Frame :=
  match left with
  | 0 => v
  | left + 1 =>
    frameOfItems l left (i + 1)
      (shiftIn v (decide (l[spacePos i]? = some (Item.space Config.nec.txOneSpace))))

end Sys2Proof.Machine
end

