-- ==== Sys2Proof/Syntax.lean ====
section
/-! DEFINITION. The instructions: one constructor per row of spec/opcode_table.json. The first twelve are the
operations of spec/00_scope.md R19; the others are the words of the block's encodings (R70). -/

namespace Sys2Proof

/-- One constructor per row of the opcode table. -/
inductive Instr where
  /-- RESET(`T0`) (R250). -/
  | reset (t0 : Nat)
  /-- EDGE(`t`, `level`) (R101). -/
  | edge (t : Nat) (level : Bool)
  /-- RECORD(`d`, `level`) (R102). -/
  | record (d : Nat) (level : Bool)
  /-- TIMEOUT_CHECK(`now`) (R108). -/
  | timeoutCheck (now : Nat)
  /-- TAKE_SNAPSHOT() (R109). -/
  | takeSnapshot
  /-- MATCH(`d`, `e`) (R130). -/
  | matchPulse (d e : Nat)
  /-- DECODE(`s`, `now`) (R131). -/
  | decode (s : List Nat) (now : Nat)
  /-- POLL(`now_A`, `now_B`) (R200). -/
  | poll (nowA nowB : Nat)
  /-- PARSE_HEX(`text`) (R170). -/
  | parseHex (text : List Char)
  /-- FORMAT_HEX(`F`) (R171). -/
  | formatHex (frame : Frame)
  /-- ENCODE(`F`, `n`) (R173). -/
  | encode (frame : Frame) (n : Nat)
  /-- SEND(`text`, `n`) (R178), or with `F` in place of the text (R204). -/
  | send (code : SendCode) (n : Nat)
  /-- NEC_FRAME: a frame word (R71). -/
  | necFrame (frame : Frame)
  /-- HEX_TEXT: a hex text (R72). -/
  | hexText (text : List Char)
  /-- RX_LEADIN: a first pulse above 20000 at raw position 0 (R132). -/
  | rxLeadIn (d : Nat)
  /-- RX_HDR_MARK at position 0 (R74). -/
  | rxHdrMark (d : Nat)
  /-- RX_HDR_SPACE at position 1 of a standard frame (R74). -/
  | rxHdrSpace (d : Nat)
  /-- RX_RPT_SPACE at position 1 of a repeat frame (R74). -/
  | rxRptSpace (d : Nat)
  /-- RX_BIT_MARK at position 2 + 2i (position 2 of a repeat frame is i = 0) (R74). -/
  | rxBitMark (i : Fin 32) (d : Nat)
  /-- RX_ONE_SPACE at position 3 + 2i: bit i is 1 (R74). -/
  | rxOneSpace (i : Fin 32) (d : Nat)
  /-- RX_ZERO_SPACE at position 3 + 2i: bit i is 0 (R74). -/
  | rxZeroSpace (i : Fin 32) (d : Nat)
  /-- RX_STANDARD_FRAME: a pulse sequence of the standard layout (R75). -/
  | rxStandardFrame (s : List Nat)
  /-- RX_REPEAT_FRAME: a pulse sequence of the repeat layout (R75). -/
  | rxRepeatFrame (s : List Nat)
  /-- TX_HEADER (R78). -/
  | txHeader
  /-- TX_BIT_1 (R78). -/
  | txBit1
  /-- TX_BIT_0 (R78). -/
  | txBit0
  /-- TX_STOP (R78). -/
  | txStop
  /-- TX_REPEAT_FRAME (R78). -/
  | txRepeatFrame
  /-- TX_WAIT (R78). -/
  | txWait
  /-- TX_OUTPUT: the whole output for a frame and a repeat count (R79, R173). -/
  | txOutput (frame : Frame) (n : Nat)
  /-- RESULT_NONE (R16, R83). -/
  | resultNone
  /-- RESULT_COMMAND with its frame (R16, R83). -/
  | resultCommand (frame : Frame)
  /-- RESULT_REPEAT (R16, R83). -/
  | resultRepeat
  /-- CAUSE_MALFORMED_INPUT, code 1 (R221). -/
  | causeMalformedInput
  /-- CAUSE_TIMING_MISMATCH, code 2 (R221). -/
  | causeTimingMismatch
  /-- CAUSE_BUFFER_OVERFLOW, code 3 (R221). -/
  | causeBufferOverflow
  /-- CAUSE_CHECKSUM_MISMATCH, code 4 (R221). -/
  | causeChecksumMismatch
deriving DecidableEq, Repr

end Sys2Proof
end

