-- ==== Sys2Proof/WellFormed.lean ====
section
/-! DEFINITION. Which terms of `Instr` are words of the opcode table: an operation may have any operands; a word of
the receive line code must spell its symbol or layout, a hex text must spell a frame (spec/30_encoding.md R72, R74,
R75). -/

namespace Sys2Proof

open Machine

/-- The check, one case per constructor. -/
def Instr.wf (i : Instr) : Bool :=
  match i with
  | .reset _ => true
  | .edge _ _ => true
  | .record _ _ => true
  | .timeoutCheck _ => true
  | .takeSnapshot => true
  | .matchPulse _ _ => true
  | .decode _ _ => true
  | .poll _ _ => true
  | .parseHex _ => true
  | .formatHex _ => true
  | .encode _ _ => true
  | .send _ _ => true
  | .necFrame _ => true
  | .hexText text => isHexText text
  | .rxLeadIn d => spellsSymbol .leadIn d
  | .rxHdrMark d => spellsSymbol .hdrMark d
  | .rxHdrSpace d => spellsSymbol .hdrSpace d
  | .rxRptSpace d => spellsSymbol .rptSpace d
  | .rxBitMark _ d => spellsSymbol .bitMark d
  | .rxOneSpace _ d => spellsSymbol .oneSpace d
  | .rxZeroSpace _ d => spellsSymbol .zeroSpace d
  | .rxStandardFrame s => isStandardFrame s
  | .rxRepeatFrame s => isRepeatFrame s
  | .txHeader => true
  | .txBit1 => true
  | .txBit0 => true
  | .txStop => true
  | .txRepeatFrame => true
  | .txWait => true
  | .txOutput _ _ => true
  | .resultNone => true
  | .resultCommand _ => true
  | .resultRepeat => true
  | .causeMalformedInput => true
  | .causeTimingMismatch => true
  | .causeBufferOverflow => true
  | .causeChecksumMismatch => true

/-- A well-formed instruction. -/
abbrev Instr.WellFormed (i : Instr) : Prop := i.wf = true

end Sys2Proof
end

