-- ==== Sys2Proof/Decode.lean ====
section
/-! DEFINITION. The decoder from words to instructions, total and rejecting by name, the encoder from instructions to
words, and the reading of the opcode table's own words (spec/30_encoding.md, spec/opcode_table.json). -/

namespace Sys2Proof

open Machine

/-- Why a word is no instruction. -/
inductive DecodeError where
  /-- Operation numbers 12 to 15 (R83, R236). -/
  | unassignedOperation
  /-- The operand tuple has not the operation's shape (log entry 1). -/
  | operandShape
  /-- A level operand that is not one bit (R83). -/
  | levelWidth
  /-- A frame operand that is not 32 bits (R71). -/
  | frameWidth
  /-- Not 8 hexadecimal digits (R72). -/
  | notHexText
  /-- The duration spells no symbol at its position (R80). -/
  | noSymbol
  /-- A position no rule reads (R75). -/
  | unreadPosition
  /-- The pulses have neither layout of R75. -/
  | noLayout
  /-- The items are no symbol of R78. -/
  | noTransmitSymbol
  /-- The items are no output of R173. -/
  | noTransmitOutput
  /-- Result tag 3 (R83). -/
  | unassignedTag
  /-- A `Command` without its frame, or another result with one (R16). -/
  | payloadShape
  /-- A cause code without a row in R221. -/
  | unassignedCause
deriving DecidableEq, Repr

/-- A level operand: 0 or 1 (R83). -/
def levelOf (n : Nat) : Option Bool :=
  match n with
  | 0 => some false
  | 1 => some true
  | _ => none

/-- A level as an operand (R83). -/
def levelNum (b : Bool) : Nat := if b then 1 else 0

/-- A frame operand: 32 bits (R71). -/
def frameOf (n : Nat) : Option Frame :=
  if n < 4294967296 then some (BitVec.ofNat 32 n) else none

/-- The first operand of SEND: the text, or the frame as a number (R204). -/
def sendOperand (code : SendCode) : Operand :=
  match code with
  | .text t => .text t
  | .frame f => .num f.toNat

/-- Format OP by operation number (R83). -/
def decodeOp (number : Nat) (operands : List Operand) : Except DecodeError Instr :=
  match number with
  | 0 =>
    match operands with
    | [.num t0] => .ok (.reset t0)
    | _ => .error .operandShape
  | 1 =>
    match operands with
    | [.num t, .num l] =>
      match levelOf l with
      | some level => .ok (.edge t level)
      | none => .error .levelWidth
    | _ => .error .operandShape
  | 2 =>
    match operands with
    | [.num d, .num l] =>
      match levelOf l with
      | some level => .ok (.record d level)
      | none => .error .levelWidth
    | _ => .error .operandShape
  | 3 =>
    match operands with
    | [.num now] => .ok (.timeoutCheck now)
    | _ => .error .operandShape
  | 4 =>
    match operands with
    | [] => .ok .takeSnapshot
    | _ => .error .operandShape
  | 5 =>
    match operands with
    | [.num d, .num e] => .ok (.matchPulse d e)
    | _ => .error .operandShape
  | 6 =>
    match operands with
    | [.seq s, .num now] => .ok (.decode s now)
    | _ => .error .operandShape
  | 7 =>
    match operands with
    | [.num nowA, .num nowB] => .ok (.poll nowA nowB)
    | _ => .error .operandShape
  | 8 =>
    match operands with
    | [.text text] => .ok (.parseHex text)
    | _ => .error .operandShape
  | 9 =>
    match operands with
    | [.num f] =>
      match frameOf f with
      | some frame => .ok (.formatHex frame)
      | none => .error .frameWidth
    | _ => .error .operandShape
  | 10 =>
    match operands with
    | [.num f, .num n] =>
      match frameOf f with
      | some frame => .ok (.encode frame n)
      | none => .error .frameWidth
    | _ => .error .operandShape
  | 11 =>
    match operands with
    | [.text text, .num n] => .ok (.send (.text text) n)
    | [.num f, .num n] =>
      match frameOf f with
      | some frame => .ok (.send (.frame frame) n)
      | none => .error .frameWidth
    | _ => .error .operandShape
  | _ => .error .unassignedOperation

/-- Format RXSYM at a bit position (R74). -/
def decodeBitSymbol (position : Nat) (d : Nat) : Except DecodeError Instr :=
  if h : (position - 2) / 2 < 32 then
    if position % 2 = 0 then
      if spellsSymbol .bitMark d then .ok (.rxBitMark ⟨(position - 2) / 2, h⟩ d) else .error .noSymbol
    else
      match bitOfSpace d with
      | some true => .ok (.rxOneSpace ⟨(position - 2) / 2, h⟩ d)
      | some false => .ok (.rxZeroSpace ⟨(position - 2) / 2, h⟩ d)
      | none => .error .noSymbol
  else .error .unreadPosition

/-- Format RXSYM: what a measured duration spells at its position (R74, R80); position 0 also reads the lead-in
(R132; log entry 18). -/
def decodeRxSym (position : Nat) (d : Nat) : Except DecodeError Instr :=
  if position = 0 then
    if spellsSymbol .leadIn d then .ok (.rxLeadIn d)
    else if spellsSymbol .hdrMark d then .ok (.rxHdrMark d)
    else .error .noSymbol
  else if position = 1 then
    if spellsSymbol .hdrSpace d then .ok (.rxHdrSpace d)
    else if spellsSymbol .rptSpace d then .ok (.rxRptSpace d)
    else .error .noSymbol
  else decodeBitSymbol position d

/-- Format RXFRAME: the repeat layout is tried first (R81). -/
def decodeRxFrame (s : List Nat) : Except DecodeError Instr :=
  if isRepeatFrame s then .ok (.rxRepeatFrame s)
  else if isStandardFrame s then .ok (.rxStandardFrame s)
  else .error .noLayout

/-- Format TXSYM (R78). -/
def decodeTxSym (items : List Item) : Except DecodeError Instr :=
  if items = headerItems then .ok .txHeader
  else if items = oneItems then .ok .txBit1
  else if items = zeroItems then .ok .txBit0
  else if items = stopItems then .ok .txStop
  else if items = repeatFrameItems then .ok .txRepeatFrame
  else if items = waitItems then .ok .txWait
  else .error .noTransmitSymbol

/-- Format TXFRAME: the frame its spaces spell and the repeat count its length gives (R176), if the items are exactly
the output for them (R173). -/
def decodeTxFrame (items : List Item) : Except DecodeError Instr :=
  let f := frameOfItems items Config.nec.nbits 0 0
  let n := (items.length - 69) / 6
  if items = encodeItems f n then .ok (.txOutput f n) else .error .noTransmitOutput

/-- Format RESULT by tag (R83). -/
def decodeResultTag (tag : Nat) (payload : Option Frame) : Except DecodeError Instr :=
  match tag with
  | 0 =>
    match payload with
    | none => .ok .resultNone
    | some _ => .error .payloadShape
  | 1 =>
    match payload with
    | some f => .ok (.resultCommand f)
    | none => .error .payloadShape
  | 2 =>
    match payload with
    | none => .ok .resultRepeat
    | some _ => .error .payloadShape
  | _ => .error .unassignedTag

/-- Format CAUSE by code (R221). -/
def decodeCauseCode (code : Nat) : Except DecodeError Instr :=
  match code with
  | 1 => .ok .causeMalformedInput
  | 2 => .ok .causeTimingMismatch
  | 3 => .ok .causeBufferOverflow
  | 4 => .ok .causeChecksumMismatch
  | _ => .error .unassignedCause

/-- The decoder: total on every word. That a word which spells nothing is no instruction and is refused is the spec's only for the
unassigned numbers of R83 and R236; for the other formats it is the model's choice (log entry 25). -/
def decode (w : CodeWord) : Except DecodeError Instr :=
  match w with
  | .op number operands => decodeOp number.toNat operands
  | .nec32 word => .ok (.necFrame word)
  | .hex8 text => if isHexText text then .ok (.hexText text) else .error .notHexText
  | .rxSym position d => decodeRxSym position d
  | .rxFrame s => decodeRxFrame s
  | .txSym items => decodeTxSym items
  | .txFrame items => decodeTxFrame items
  | .result tag payload => decodeResultTag tag.toNat payload
  | .cause code => decodeCauseCode code.toNat

/-- The encoder: the word of an instruction, from the same tables. -/
def encode (i : Instr) : CodeWord :=
  match i with
  | .reset t0 => .op 0 [.num t0]
  | .edge t level => .op 1 [.num t, .num (levelNum level)]
  | .record d level => .op 2 [.num d, .num (levelNum level)]
  | .timeoutCheck now => .op 3 [.num now]
  | .takeSnapshot => .op 4 []
  | .matchPulse d e => .op 5 [.num d, .num e]
  | .decode s now => .op 6 [.seq s, .num now]
  | .poll nowA nowB => .op 7 [.num nowA, .num nowB]
  | .parseHex text => .op 8 [.text text]
  | .formatHex frame => .op 9 [.num frame.toNat]
  | .encode frame n => .op 10 [.num frame.toNat, .num n]
  | .send code n => .op 11 [sendOperand code, .num n]
  | .necFrame frame => .nec32 frame
  | .hexText text => .hex8 text
  | .rxLeadIn d => .rxSym 0 d
  | .rxHdrMark d => .rxSym 0 d
  | .rxHdrSpace d => .rxSym 1 d
  | .rxRptSpace d => .rxSym 1 d
  | .rxBitMark i d => .rxSym (markPos i) d
  | .rxOneSpace i d => .rxSym (spacePos i) d
  | .rxZeroSpace i d => .rxSym (spacePos i) d
  | .rxStandardFrame s => .rxFrame s
  | .rxRepeatFrame s => .rxFrame s
  | .txHeader => .txSym headerItems
  | .txBit1 => .txSym oneItems
  | .txBit0 => .txSym zeroItems
  | .txStop => .txSym stopItems
  | .txRepeatFrame => .txSym repeatFrameItems
  | .txWait => .txSym waitItems
  | .txOutput frame n => .txFrame (encodeItems frame n)
  | .resultNone => .result 0 none
  | .resultCommand frame => .result 1 (some frame)
  | .resultRepeat => .result 2 none
  | .causeMalformedInput => .cause 1
  | .causeTimingMismatch => .cause 2
  | .causeBufferOverflow => .cause 3
  | .causeChecksumMismatch => .cause 4

/-- The operands of an operation when every operand bit is 0: zeros, the empty sequence, the empty text. -/
def zeroOperands (number : Nat) : List Operand :=
  match number with
  | 0 => [.num 0]
  | 1 => [.num 0, .num 0]
  | 2 => [.num 0, .num 0]
  | 3 => [.num 0]
  | 4 => []
  | 5 => [.num 0, .num 0]
  | 6 => [.seq [], .num 0]
  | 7 => [.num 0, .num 0]
  | 8 => [.text []]
  | 9 => [.num 0]
  | 10 => [.num 0, .num 0]
  | 11 => [.text [], .num 0]
  | _ => []

/-- The word the opcode table's bits give: a 32-bit row is a frame word (R71); any other row with bits is an operation,
whose number is bits 3:0 (the mask of the OP rows), with operands of zeros (log entry 3). -/
def tableCodeWord (nbits w : Nat) : CodeWord :=
  if nbits = 32 then .nec32 (BitVec.ofNat 32 w)
  else .op (BitVec.ofNat 4 w) (zeroOperands (w % 16))

/-- What the decoder reads from a word of the opcode table. -/
def decodeTableWord (nbits w : Nat) : Option Instr :=
  match decode (tableCodeWord nbits w) with
  | .ok i => some i
  | .error _ => none

end Sys2Proof
end

