-- ==== Sys2Proof/Machine/State.lean ====
section
/-! DEFINITION. The state of the machine: the five elements of the block (spec/10_state.md R20), the polling path's
`go` (R32), the platform's `IDLE_LEVEL`, and the environment's side of the interfaces; the reasons a step stops. -/

namespace Sys2Proof.Machine

/-- The repeat state: `last_frame` with its `last_time` (R24, R25). -/
structure LastCommand where
  frame : Frame
  time : Nat
deriving DecidableEq, Repr

/-- The architectural state, "exactly this record" (R20). -/
structure Block where
  /-- The pulse sequence being captured, oldest first: the list of R50 "whatever the construction", with no spare array and no
  select bit (R21, R65). -/
  buf : List Nat
  /-- The "ready to decode" signal (R22). -/
  ready : Bool
  /-- The time of the most recent edge (R23). -/
  lastEdgeTime : Nat
  /-- `last_frame` and `last_time` as one optional pair (R24, R25). -/
  last : Option LastCommand
deriving DecidableEq, Repr

/-- `DecodeResult` of R16. -/
inductive DecodeResult where
  | command (frame : Frame)
  | repeatFrame
  | none
deriving DecidableEq, Repr

/-- RECORD's output (R102). -/
inductive RecordOutcome where
  | ignored | dropped | stored
deriving DecidableEq, Repr

/-- The diagnostics of R226. -/
inductive Diag where
  | overflow | rxAddrChecksum | rxCmdChecksum | txAddrChecksum | txCmdChecksum
deriving DecidableEq, Repr

/-- The failure causes of R221, codes 1 to 4. -/
inductive Cause where
  | malformedInput | timingMismatch | bufferOverflow | checksumMismatch
deriving DecidableEq, Repr

/-- The fourth column of R221: what a failure does to the state. -/
inductive FailureEffect where
  /-- "none", or "none beyond the normal update". -/
  | unchanged
  /-- `buf <- []`. -/
  | emptiesBuffer
deriving DecidableEq, Repr

/-- The last column of R221: what the caller sees of a failure. -/
inductive FailureSeen where
  /-- `EncodeError`, which SEND turns into `success = 0` and no items. -/
  | encodeErrorOrFailedSend
  /-- `None`. -/
  | noneResult
  /-- `DIAG_OVERFLOW`, and a later `None`. -/
  | overflowDiag
  /-- The normal result and a diagnostic. -/
  | resultWithDiagnostic
deriving DecidableEq, Repr

/-- One output of an operation (R14, R204). -/
inductive Event where
  /-- RECORD's outcome (R102). -/
  | recordOutcome (o : RecordOutcome)
  /-- MATCH's bit (R130). -/
  | matchBit (b : Bool)
  /-- The sequence TAKE_SNAPSHOT returns (R109). -/
  | snapshot (s : List Nat)
  /-- A decode result, from DECODE or POLL (R131, R200). -/
  | decodeResult (r : DecodeResult)
  /-- A frame word, from PARSE_HEX or spelled by a text or a layout (R170, R72, R76). -/
  | frameWord (frame : Frame)
  /-- `EncodeError`: "the caller sees only the failure" (R170, D20). -/
  | encodeError
  /-- The text FORMAT_HEX returns (R171). -/
  | hexText (text : List Char)
  /-- A list of items (R173, R78). -/
  | items (l : List Item)
  /-- SEND's reply with the items for the carrier driver (R178). -/
  | sendReply (success : Bool) (items : List Item)
  /-- A diagnostic (R226). -/
  | diag (d : Diag)
  /-- The fields of a frame word and its two checksum predicates (R71, R73). -/
  | frameFields (addr naddr cmd ncmd : Byte) (addrOk cmdOk : Bool)
  /-- A duration does or does not spell a receive symbol (R74). -/
  | symbol (sym : RxSymbol) (spelled : Bool)
  /-- Bit `i` in line order, as a space spells it (R74, R76). -/
  | lineBit (i : Nat) (value : Bool)
  /-- A pulse sequence does not have the layout asked for (R75). -/
  | noLayout
  /-- A pulse sequence has the repeat layout (R75). -/
  | repeatLayout
  /-- A row of R221: the cause, its effect on the state, what the caller sees (log entry 5). -/
  | cause (c : Cause) (effect : FailureEffect) (seen : FailureSeen)
deriving DecidableEq, Repr

/-- One turn the environment gives (R60; log entries 1 and 10). -/
inductive Turn where
  /-- An agent requests the operation, or presents the word. -/
  | request (agent : Agent) (word : CodeWord)
  /-- The polling path goes on with the second phase of the POLL it is in (R200). -/
  | resume
  /-- The carrier driver has played the first item it still has (R206; log entry 21). -/
  | itemPlayed
deriving DecidableEq, Repr

/-- The whole state of the model. -/
structure State where
  /-- The block (R20). -/
  block : Block
  /-- `go` between the phases of a POLL: none is 0; `some now_B` is 1, with the operand phase B still needs
  (R32, R200; log entry 10). -/
  go : Option Nat
  /-- The platform parameter `IDLE_LEVEL` (R9, R252); no operation writes it (log entry 9). -/
  idleLevel : Bool
  /-- The latest time stamp given to the block (R220; log entry 7). -/
  clock : Nat
  /-- The items the carrier driver has still to play, next one first: the driver's state, outside the block (R32 (c), R206),
  held for the duty of R205 (log entry 21). -/
  playing : List Item
  /-- The turns still to run, first one first (log entry 1). -/
  requests : List Turn
  /-- Every output so far, oldest first (log entry 6). -/
  outputs : List Event
deriving DecidableEq, Repr

/-- The block has no fault: "no operation traps" (R236). Nothing raises one. -/
inductive Fault where
deriving DecidableEq, Repr

/-- Why a step is refused. -/
inductive Refusal where
  /-- An arm of `exec` without a meaning; no arm of this model answers it. Safe. -/
  | notModelled (mnemonic : String)
  /-- A time stamp below an earlier one, or a POLL with `now_B < now_A` (R220, R236, R200). Raised by every operation that
  takes a stamp. Safe: the spec gives such a request no step. -/
  | clockNotMonotone
  /-- An operation requested by an agent that may not request it (R203, R231, R236). Raised by the step. Safe. -/
  | wrongAgent (agent : Agent)
  /-- A SEND before the carrier driver has played the whole list of an earlier one (R205, R256 (P3)). Raised by the step. Safe:
  "the model gives no move to a host that does not" wait. -/
  | driverBusy
  /-- A word that is no instruction: an unassigned number (R83, R236), or, by the model's choice, a word of another format that
  spells nothing (log entry 25). Raised by the step. Safe. -/
  | badWord (e : DecodeError)
deriving DecidableEq, Repr

/-- The block after RESET(`t0`) (R34). -/
def Block.reset (t0 : Nat) : Block where
  buf := []
  ready := false
  lastEdgeTime := t0
  last := none

/-- The machine right after reset with `T0` = 0 (R34; log entries 8 and 9). The spec gives `go` no reset value: the model
starts with no POLL in flight, and with a carrier driver that plays nothing, its own choices (log entry 23). -/
def State.reset : State where
  block := Block.reset 0
  go := none
  idleLevel := true
  clock := 0
  playing := []
  requests := []
  outputs := []

end Sys2Proof.Machine
end

