-- ==== Sys2Proof/Machine/Flags.lean ====
section
/-! DEFINITION. Every condition and one-bit value the rules compute: the readiness conditions, the time-out, the
repeat window, the checksum predicates, the clock premise and the observable status (spec/40_capture.md R105, R108,
spec/41_decoder.md R134, spec/30_encoding.md R73, spec/60_exceptions.md R220, spec/10_state.md R27). -/

namespace Sys2Proof.Machine

/-- Condition (a) of R105: level idle, pulse above 30000, more than 30 pulses. -/
def readyByGap (idleLevel level : Bool) (d : Nat) (n : Nat) : Bool :=
  (level == idleLevel) && decide (Config.nec.readyGapUs < d) && decide (Config.nec.readyGapMinLen < n)

/-- Condition (b) of R105: more than 67 pulses. -/
def readyByLength (n : Nat) : Bool := decide (Config.nec.readyFullLen < n)

/-- The readiness heuristic of R105; `n` is the length with the new pulse `d`. -/
def readyOnStore (idleLevel level : Bool) (d : Nat) (n : Nat) : Bool :=
  readyByGap idleLevel level d n || readyByLength n

/-- The fallback condition of R108. -/
def timeoutFires (now lastEdgeTime : Nat) (len : Nat) : Bool :=
  decide (Config.nec.timeoutMinLen < len) && decide (Config.nec.timeoutUs < now - lastEdgeTime)

/-- A repeat-shaped sequence is accepted: a prior `Command`, less than the window ago (R134). -/
def repeatAccepted (last : Option LastCommand) (now : Nat) : Bool :=
  match last with
  | some l => decide (now - l.time < Config.nec.repeatWindowUs)
  | none => false

/-- `addr_ok(F)` (R73). -/
def addrOk (f : Frame) : Bool := (frameAddr f ^^^ frameNaddr f) == 0xFF#8

/-- `cmd_ok(F)` (R73). -/
def cmdOk (f : Frame) : Bool := (frameCmd f ^^^ frameNcmd f) == 0xFF#8

/-- The diagnostics of step 7 of DECODE (R138). -/
def rxChecksumDiags (f : Frame) : List Event :=
  (if addrOk f then [] else [.diag .rxAddrChecksum]) ++ (if cmdOk f then [] else [.diag .rxCmdChecksum])

/-- The encoder's warnings (R172). -/
def txChecksumWarnings (f : Frame) : List Event :=
  (if addrOk f then [] else [.diag .txAddrChecksum]) ++ (if cmdOk f then [] else [.diag .txCmdChecksum])

/-- The clock premise for a stamp: it is at least every stamp the state knows to have been given (R220). -/
def stampAdmitted (s : State) (t : Nat) : Bool :=
  decide (s.clock ≤ t) && decide (s.block.lastEdgeTime ≤ t) &&
    match s.block.last with
    | some l => decide (l.time ≤ t)
    | none => true

/-- Observable status `len` (R27). -/
def Block.len (b : Block) : Nat := b.buf.length

/-- Observable status `have_last` (R27). -/
def Block.haveLast (b : Block) : Bool := b.last.isSome

/-- The canonical form of the pulse buffer: at most 100 entries, each at least 100 (R21, R35 (I-1), (I-2)). -/
def Memory.wf (buf : List Nat) : Bool :=
  decide (buf.length ≤ Config.nec.cap) && buf.all (fun d => decide (Config.nec.noiseMinUs ≤ d))

end Sys2Proof.Machine
end

