-- ==== Sys2Proof/Machine/Ops.lean ====
section
/-! DEFINITION. The named operations every meaning is made of: the accesses to the pulse buffer and the repeat state, the
outputs, the clock premise, and the one description of a failure (spec/20_memory.md R55, spec/60_exceptions.md R220 to
R222, R227). The block has no trap to take and no return from one (R227, R228). -/

namespace Sys2Proof.Machine

/-! ### Writes of the block's elements -/

/-- Append one pulse; `now` tells whether a readiness condition holds, and `ready` is never cleared (R102, R105). -/
def Block.store (b : Block) (d : Nat) (fires : Bool) : Block :=
  { b with buf := b.buf ++ [d], ready := b.ready || fires }

/-- Throw all pulses away; nothing else changes (R104). -/
def Block.clearBuf (b : Block) : Block := { b with buf := [] }

/-- Set `ready` when the condition holds (R108). -/
def Block.raiseReady (b : Block) (fires : Bool) : Block := { b with ready := b.ready || fires }

/-- The exchange of TAKE_SNAPSHOT: empty the buffer, clear the flag (R62, R109). -/
def Block.drain (b : Block) : Block := { b with buf := [], ready := false }

/-- Write the repeat state (R139). -/
def Block.remember (b : Block) (f : Frame) (now : Nat) : Block := { b with last := some ⟨f, now⟩ }

/-- Write the time of the latest edge (R101). -/
def Block.stampEdge (b : Block) (t : Nat) : Block := { b with lastEdgeTime := t }

/-! ### Writes of the state's fields -/

/-- Replace the block. -/
def State.withBlock (s : State) (b : Block) : State := { s with block := b }

/-- Add outputs of an operation (R14). -/
def State.emit (s : State) (evs : List Event) : State := { s with outputs := s.outputs ++ evs }

/-- The latest stamp given (R220). -/
def State.setClock (s : State) (t : Nat) : State := { s with clock := t }

/-- Write `go` (R32). -/
def State.setGo (s : State) (g : Option Nat) : State := { s with go := g }

/-- Write what the carrier driver has still to play (R206). -/
def State.setPlaying (s : State) (l : List Item) : State := { s with playing := l }

/-- Write the list of turns. -/
def State.setRequests (s : State) (l : List Turn) : State := { s with requests := l }

/-! ### Shapes of a meaning -/

/-- An operation that only outputs. -/
def report (evs : List Event) (s : State) : Host.Outcome State Fault Refusal := .next (s.emit evs)

/-- An operation given the stamp `t`: refused when the stamp breaks the clock premise, else it runs with the stamp noted
(R220). -/
def atStamp (t : Nat) (s : State) (body : State → State) : Host.Outcome State Fault Refusal :=
  if stampAdmitted s t then .next (body (s.setClock t)) else .refused .clockNotMonotone

/-! ### Failures -/

/-- The fourth column of R221. -/
def Cause.effect (c : Cause) : FailureEffect :=
  match c with
  | .malformedInput => .unchanged
  | .timingMismatch => .unchanged
  | .bufferOverflow => .emptiesBuffer
  | .checksumMismatch => .unchanged

/-- The last column of R221. -/
def Cause.seen (c : Cause) : FailureSeen :=
  match c with
  | .malformedInput => .encodeErrorOrFailedSend
  | .timingMismatch => .noneResult
  | .bufferOverflow => .overflowDiag
  | .checksumMismatch => .resultWithDiagnostic

/-- Effect of a failure on the block. -/
def failureEffect (c : Cause) (b : Block) : Block :=
  match c.effect with
  | .unchanged => b
  | .emptiesBuffer => b.clearBuf

/-- The events a failing operation outputs for its failure: SEND, DECODE and RECORD (R221, R178). PARSE_HEX outputs its own
error, and a checksum mismatch comes with the normal result (`rxChecksumDiags`, `txChecksumWarnings`). -/
def failureSeen (c : Cause) : List Event :=
  match c with
  | .malformedInput => [.sendReply false []]
  | .timingMismatch => [.decodeResult .none]
  | .bufferOverflow => [.diag .overflow]
  | .checksumMismatch => []

/-- A failure of cause `c` happens in the state; nothing is latched (R221, R222, R227). -/
def takeFailure (c : Cause) (s : State) : State :=
  (s.withBlock (failureEffect c s.block)).emit (failureSeen c)

/-! ### Shared bodies of the operations -/

/-- RECORD on a state: noise, then capacity, then store with readiness (R102, R225). -/
def recordPulse (d : Nat) (level : Bool) (s : State) : State :=
  if d < Config.nec.noiseMinUs then s.emit [.recordOutcome .ignored]
  else if s.block.len = Config.nec.cap then (takeFailure .bufferOverflow s).emit [.recordOutcome .dropped]
  else
    (s.withBlock (s.block.store d (readyOnStore s.idleLevel level d (s.block.len + 1)))).emit
      [.recordOutcome .stored]

/-- TIMEOUT_CHECK on a state (R108). -/
def checkTimeout (now : Nat) (s : State) : State :=
  s.withBlock (s.block.raiseReady (timeoutFires now s.block.lastEdgeTime s.block.len))

/-- The answer of the decoder with the reason of a `None` (R131, R141). -/
inductive Verdict where
  | command (frame : Frame)
  | repeatFrame
  | none (reason : NoneReason)
deriving DecidableEq, Repr

/-- Steps 1 to 6 of DECODE (R131). -/
def verdict (s : List Nat) (last : Option LastCommand) (now : Nat) : Verdict :=
  let p := dropLeadIn s
  if p.length < 2 then .none .short
  else if isRepeatShaped p then
    if repeatAccepted last now then .repeatFrame else .none .repeatRejected
  else
    match standardFrame p with
    | .ok f => .command f
    | .error r => .none r

/-- A verdict as the result the caller sees: the reason is no output (R141, R222). -/
def Verdict.result (v : Verdict) : DecodeResult :=
  match v with
  | .command f => .command f
  | .repeatFrame => .repeatFrame
  | .none _ => .none

/-- Steps 7 and 8 of DECODE, and its silence otherwise (R138 to R140). -/
def deliver (v : Verdict) (now : Nat) (s : State) : State :=
  match v with
  | .command f =>
    (s.withBlock (s.block.remember f now)).emit (rxChecksumDiags f ++ [.decodeResult (.command f)])
  | .repeatFrame => s.emit [.decodeResult .repeatFrame]
  | .none _ => takeFailure .timingMismatch s

/-- DECODE on a state (R131). -/
def decodeSequence (p : List Nat) (now : Nat) (s : State) : State :=
  deliver (verdict p s.block.last now) now s

/-- What PARSE_HEX outputs (R170). The reason label goes to an operation that calls PARSE_HEX, by `parseText`, and to no output
(R222, D20; log entry 24). -/
def parseEvents (text : List Char) : List Event :=
  match parseText text with
  | .ok f => [.frameWord f]
  | .error _ => [.encodeError]

/-- What SEND answers: PARSE_HEX of a text, then ENCODE (R178). -/
def sendEvents (code : SendCode) (n : Nat) : List Event :=
  match sendFrame code with
  | .ok f => txChecksumWarnings f ++ [.sendReply true (encodeItems f n)]
  | .error _ => failureSeen .malformedInput

/-- The items a SEND hands to the carrier driver (R178, R206). -/
def sendItems (code : SendCode) (n : Nat) : List Item :=
  match sendFrame code with
  | .ok f => encodeItems f n
  | .error _ => []

/-- What a receive symbol word says: whether its duration spells it (R74). -/
def symbolEvents (sym : RxSymbol) (d : Nat) : List Event := [.symbol sym (spellsSymbol sym d)]

/-- What a space of bit `i` says: the symbol and, when it is spelled, the bit (R74, R76). -/
def spaceEvents (sym : RxSymbol) (value : Bool) (i : Nat) (d : Nat) : List Event :=
  symbolEvents sym d ++ (if spellsSymbol sym d then [.lineBit i value] else [])

/-- A cause row says what R221 says of its cause; a code is a label, so nothing happens to the block (D2; log entry 5). -/
def causeEvents (c : Cause) : List Event := [.cause c c.effect c.seen]

end Sys2Proof.Machine
end

