-- ==== Sys2Proof/Machine/Capture.lean ====
section
/-! DEFINITION. The capture family: EDGE, RECORD, TIMEOUT_CHECK, TAKE_SNAPSHOT (spec/40_capture.md). -/

namespace Sys2Proof.Machine

/-- EDGE(`t`, `level`): the time since the last edge is recorded as a pulse, in the same atomic step (R101). -/
def execEdge (t : Nat) (level : Bool) (s : State) : Host.Outcome State Fault Refusal :=
  atStamp t s (fun s =>
    recordPulse (t - s.block.lastEdgeTime) level (s.withBlock (s.block.stampEdge t)))

/-- RECORD(`d`, `level`) (R102). -/
def execRecord (d : Nat) (level : Bool) (s : State) : Host.Outcome State Fault Refusal :=
  .next (recordPulse d level s)

/-- TIMEOUT_CHECK(`now`) (R108). -/
def execTimeoutCheck (now : Nat) (s : State) : Host.Outcome State Fault Refusal :=
  atStamp now s (checkTimeout now)

/-- TAKE_SNAPSHOT(): total, also when `ready` is 0 or the buffer is empty (R109). -/
def execTakeSnapshot (s : State) : Host.Outcome State Fault Refusal :=
  .next ((s.withBlock s.block.drain).emit [.snapshot s.block.buf])

end Sys2Proof.Machine
end

