-- ==== Sys2Proof/Machine/Decoder.lean ====
section
/-! DEFINITION. The decoder family: MATCH and DECODE, and the equivalent pulse-by-pulse form of the decoder
(spec/41_decoder.md). -/

namespace Sys2Proof.Machine

/-- MATCH(`d`, `e`): the tolerance test (R130). -/
def execMatchPulse (d e : Nat) (s : State) : Host.Outcome State Fault Refusal :=
  report [.matchBit (matchUs d e)] s

/-- DECODE(`s`, `now`) (R131). -/
def execDecode (p : List Nat) (now : Nat) (s : State) : Host.Outcome State Fault Refusal :=
  atStamp now s (decodeSequence p now)

/-! ### The pulse-by-pulse form (R143)

Its registers are working values of an implementation, not state (R31). -/

/-- `st`, with `i` and `v` where they are live (R143). -/
inductive FsmState where
  | start
  | hdrMark
  | hdrSpace
  | rptMark
  | bitMark (i : Nat) (v : Frame)
  | bitSpace (i : Nat) (v : Frame)
  | done (r : DecodeResult)
deriving DecidableEq, Repr

/-- What BIT_SPACE does with a bit: next bit, or the frame after bit 31. -/
def fsmTakeBit (i : Nat) (v : Frame) (b : Bool) : FsmState :=
  if i = 31 then .done (.command (shiftIn v b)) else .bitMark (i + 1) (shiftIn v b)

/-- The result of a repeat-shaped sequence (R134). -/
def repeatResult (last : Option LastCommand) (now : Nat) : DecodeResult :=
  if repeatAccepted last now then .repeatFrame else .none

/-- One pulse (the middle column of R143's table). -/
def fsmPulse (last : Option LastCommand) (now : Nat) (st : FsmState) (d : Nat) : FsmState :=
  match st with
  | .start =>
    if isLeadIn d then .hdrMark
    else if matchUs d Config.nec.rxHdrMark then .hdrSpace
    else .done .none
  | .hdrMark => if matchUs d Config.nec.rxHdrMark then .hdrSpace else .done .none
  | .hdrSpace =>
    if matchUs d Config.nec.rxHdrSpace then .bitMark 0 0
    else if matchUs d Config.nec.rxRptSpace then .rptMark
    else .done .none
  | .rptMark => if matchUs d Config.nec.rxBitMark then .done (repeatResult last now) else .done .none
  | .bitMark i v => if matchUs d Config.nec.rxBitMark then .bitSpace i v else .done .none
  | .bitSpace i v =>
    match bitOfSpace d with
    | some b => fsmTakeBit i v b
    | none => .done .none
  | .done r => .done r

/-- The end marker (the last column of R143's table). -/
def fsmEnd (st : FsmState) : DecodeResult :=
  match st with
  | .done r => r
  | .start => .none
  | .hdrMark => .none
  | .hdrSpace => .none
  | .rptMark => .none
  | .bitMark _ _ => .none
  | .bitSpace _ _ => .none

/-- The pulses from a state on, one at a time. -/
def fsmFrom (last : Option LastCommand) (now : Nat) (st : FsmState) (s : List Nat) : DecodeResult :=
  match s with
  | [] => fsmEnd st
  | d :: rest => fsmFrom last now (fsmPulse last now st d) rest

/-- The result of the pulse-by-pulse form on a snapshot. -/
def fsmResult (s : List Nat) (last : Option LastCommand) (now : Nat) : DecodeResult :=
  fsmFrom last now .start s

end Sys2Proof.Machine
end

