-- ==== Sys2Proof/Machine/Encoder.lean ====
section
/-! DEFINITION. The encoder family: PARSE_HEX, FORMAT_HEX, ENCODE, SEND (spec/42_encoder.md). None reads or writes the
block; SEND hands its items to the carrier driver. -/

namespace Sys2Proof.Machine

/-- PARSE_HEX(`text`) (R170). -/
def execParseHex (text : List Char) (s : State) : Host.Outcome State Fault Refusal :=
  report (parseEvents text) s

/-- FORMAT_HEX(`F`) (R171). -/
def execFormatHex (f : Frame) (s : State) : Host.Outcome State Fault Refusal :=
  report [.hexText (formatText f)] s

/-- ENCODE(`F`, `n`): the warnings of R172, then the items (R173). -/
def execEncode (f : Frame) (n : Nat) (s : State) : Host.Outcome State Fault Refusal :=
  report (txChecksumWarnings f ++ [.items (encodeItems f n)]) s

/-- SEND of a text or of a frame word, `n` repeats (R204): the reply, and the items behind what the carrier driver still plays; by R205 that is nothing (R178,
R206; log entry 21). -/
def execSend (code : SendCode) (n : Nat) (s : State) : Host.Outcome State Fault Refusal :=
  .next ((s.emit (sendEvents code n)).setPlaying (s.playing ++ sendItems code n))

end Sys2Proof.Machine
end

