-- ==== Sys2Proof/Machine/Polling.lean ====
section
/-! DEFINITION. POLL, its two atomic phases (spec/43_poll_and_host.md R200, R201). -/

namespace Sys2Proof.Machine

/-- Phase A after the stamp is admitted: TIMEOUT_CHECK, then `go <- ready`; a clear `go` ends the POLL with `None`
(R200); its `now_B` then counts as no stamp given to the block (the model's reading of R220, log entry 7). -/
def pollPhaseA (nowA nowB : Nat) (s : State) : State :=
  if (checkTimeout nowA s).block.ready then (checkTimeout nowA s).setGo (some nowB)
  else ((checkTimeout nowA s).setGo none).emit [.decodeResult .none]

/-- POLL(`now_A`, `now_B`): phase A. Phase B is a later step (log entry 10). A request with `now_B < now_A` breaks the
operands' premise and is refused. -/
def execPoll (nowA nowB : Nat) (s : State) : Host.Outcome State Fault Refusal :=
  if nowA ≤ nowB then atStamp nowA s (pollPhaseA nowA nowB) else .refused .clockNotMonotone

/-- Phase B with its stamp: TAKE_SNAPSHOT and DECODE in one step (R200). The snapshot goes to the decoder, not to an
output. -/
def pollDecode (nowB : Nat) (s : State) : State :=
  decodeSequence s.block.buf nowB ((s.withBlock s.block.drain).setGo none)

/-- Phase B of the POLL in flight; with none in flight the turn passes and nothing happens. When an EDGE
after `now_B` came between, phase B breaks the clock premise and is refused (log entry 7). -/
def pollPhaseB (s : State) : Host.Outcome State Fault Refusal :=
  match s.go with
  | some nowB => atStamp nowB s (pollDecode nowB)
  | none => .next s

end Sys2Proof.Machine
end

