-- ==== Sys2Proof/Machine/Reset.lean ====
section
/-! DEFINITION. RESET (spec/70_reset_and_hazards.md). -/

namespace Sys2Proof.Machine

/-- RESET(`T0`): the block in its initial state (R250). It "discards ... any pending readiness without decoding", so a POLL in flight
ends with its phase A, without a result, and the block then "accepts every operation at once" (R251; log entry 11). What the
carrier driver plays and `IDLE_LEVEL` stay. -/
def execReset (t0 : Nat) (s : State) : Host.Outcome State Fault Refusal :=
  atStamp t0 s (fun s => (s.withBlock (Block.reset t0)).setGo none)

end Sys2Proof.Machine
end

