-- ==== Sys2Proof/Machine/Tables.lean ====
section
/-! DEFINITION. The rows of the opcode table that are no operation: words of the block's encodings. Each says what its
word spells by the rule of its row and leaves the block alone (log entries 4 and 5). -/

namespace Sys2Proof.Machine

/-- NEC_FRAME: the four fields and the checksum predicates (R71, R73). -/
def execNecFrame (f : Frame) (s : State) : Host.Outcome State Fault Refusal :=
  report [.frameFields (frameAddr f) (frameNaddr f) (frameCmd f) (frameNcmd f) (addrOk f) (cmdOk f)] s

/-- HEX_TEXT: the frame the text spells (R72). -/
def execHexText (text : List Char) (s : State) : Host.Outcome State Fault Refusal :=
  report (parseEvents text) s

/-- RX_LEADIN (R132). -/
def execRxLeadIn (d : Nat) (s : State) : Host.Outcome State Fault Refusal :=
  report (symbolEvents .leadIn d) s

/-- RX_HDR_MARK (R74). -/
def execRxHdrMark (d : Nat) (s : State) : Host.Outcome State Fault Refusal :=
  report (symbolEvents .hdrMark d) s

/-- RX_HDR_SPACE (R74). -/
def execRxHdrSpace (d : Nat) (s : State) : Host.Outcome State Fault Refusal :=
  report (symbolEvents .hdrSpace d) s

/-- RX_RPT_SPACE (R74). -/
def execRxRptSpace (d : Nat) (s : State) : Host.Outcome State Fault Refusal :=
  report (symbolEvents .rptSpace d) s

/-- RX_BIT_MARK (R74): its position carries no value. -/
def execRxBitMark (d : Nat) (s : State) : Host.Outcome State Fault Refusal :=
  report (symbolEvents .bitMark d) s

/-- RX_ONE_SPACE: gives bit 1 (R74). -/
def execRxOneSpace (i : Fin 32) (d : Nat) (s : State) : Host.Outcome State Fault Refusal :=
  report (spaceEvents .oneSpace true i d) s

/-- RX_ZERO_SPACE: gives bit 0 (R74). -/
def execRxZeroSpace (i : Fin 32) (d : Nat) (s : State) : Host.Outcome State Fault Refusal :=
  report (spaceEvents .zeroSpace false i d) s

/-- RX_STANDARD_FRAME: the frame its spaces spell (R75, R76). -/
def execRxStandardFrame (p : List Nat) (s : State) : Host.Outcome State Fault Refusal :=
  match standardFrame (dropLeadIn p) with
  | .ok f => report [.frameWord f] s
  | .error _ => report [.noLayout] s

/-- RX_REPEAT_FRAME: "same command, button still held" and no data (R75, R81). -/
def execRxRepeatFrame (p : List Nat) (s : State) : Host.Outcome State Fault Refusal :=
  report [if isRepeatFrame p then .repeatLayout else .noLayout] s

/-- TX_HEADER (R78). -/
def execTxHeader (s : State) : Host.Outcome State Fault Refusal := report [.items headerItems] s

/-- TX_BIT_1 (R78). -/
def execTxBit1 (s : State) : Host.Outcome State Fault Refusal := report [.items oneItems] s

/-- TX_BIT_0 (R78). -/
def execTxBit0 (s : State) : Host.Outcome State Fault Refusal := report [.items zeroItems] s

/-- TX_STOP (R78). -/
def execTxStop (s : State) : Host.Outcome State Fault Refusal := report [.items stopItems] s

/-- TX_REPEAT_FRAME (R78). -/
def execTxRepeatFrame (s : State) : Host.Outcome State Fault Refusal := report [.items repeatFrameItems] s

/-- TX_WAIT (R78). -/
def execTxWait (s : State) : Host.Outcome State Fault Refusal := report [.items waitItems] s

/-- TX_OUTPUT: the whole item list (R79, R173). -/
def execTxOutput (f : Frame) (n : Nat) (s : State) : Host.Outcome State Fault Refusal :=
  report [.items (encodeItems f n)] s

/-- RESULT_NONE (R16). -/
def execResultNone (s : State) : Host.Outcome State Fault Refusal := report [.decodeResult .none] s

/-- RESULT_COMMAND (R16). -/
def execResultCommand (f : Frame) (s : State) : Host.Outcome State Fault Refusal :=
  report [.decodeResult (.command f)] s

/-- RESULT_REPEAT (R16). -/
def execResultRepeat (s : State) : Host.Outcome State Fault Refusal := report [.decodeResult .repeatFrame] s

/-- CAUSE_MALFORMED_INPUT (R221 code 1). -/
def execCauseMalformedInput (s : State) : Host.Outcome State Fault Refusal := report (causeEvents .malformedInput) s

/-- CAUSE_TIMING_MISMATCH (R221 code 2). -/
def execCauseTimingMismatch (s : State) : Host.Outcome State Fault Refusal := report (causeEvents .timingMismatch) s

/-- CAUSE_BUFFER_OVERFLOW (R221 code 3). -/
def execCauseBufferOverflow (s : State) : Host.Outcome State Fault Refusal := report (causeEvents .bufferOverflow) s

/-- CAUSE_CHECKSUM_MISMATCH (R221 code 4). -/
def execCauseChecksumMismatch (s : State) : Host.Outcome State Fault Refusal := report (causeEvents .checksumMismatch) s

end Sys2Proof.Machine
end

