-- ==== Sys2Proof/Machine/Dispatch.lean ====
section
/-! DEFINITION. One arm per instruction, each one direct call of its meaning. -/

namespace Sys2Proof.Machine

def exec (i : Instr) (s : State) : Host.Outcome State Fault Refusal :=
  match i with
  | .reset t0 => Sys2Proof.Machine.execReset t0 s
  | .edge t level => Sys2Proof.Machine.execEdge t level s
  | .record d level => Sys2Proof.Machine.execRecord d level s
  | .timeoutCheck now => Sys2Proof.Machine.execTimeoutCheck now s
  | .takeSnapshot => Sys2Proof.Machine.execTakeSnapshot s
  | .matchPulse d e => Sys2Proof.Machine.execMatchPulse d e s
  | .decode p now => Sys2Proof.Machine.execDecode p now s
  | .poll nowA nowB => Sys2Proof.Machine.execPoll nowA nowB s
  | .parseHex text => Sys2Proof.Machine.execParseHex text s
  | .formatHex f => Sys2Proof.Machine.execFormatHex f s
  | .encode f n => Sys2Proof.Machine.execEncode f n s
  | .send c n => Sys2Proof.Machine.execSend c n s
  | .necFrame f => Sys2Proof.Machine.execNecFrame f s
  | .hexText text => Sys2Proof.Machine.execHexText text s
  | .rxLeadIn d => Sys2Proof.Machine.execRxLeadIn d s
  | .rxHdrMark d => Sys2Proof.Machine.execRxHdrMark d s
  | .rxHdrSpace d => Sys2Proof.Machine.execRxHdrSpace d s
  | .rxRptSpace d => Sys2Proof.Machine.execRxRptSpace d s
  | .rxBitMark _ d => Sys2Proof.Machine.execRxBitMark d s
  | .rxOneSpace k d => Sys2Proof.Machine.execRxOneSpace k d s
  | .rxZeroSpace k d => Sys2Proof.Machine.execRxZeroSpace k d s
  | .rxStandardFrame p => Sys2Proof.Machine.execRxStandardFrame p s
  | .rxRepeatFrame p => Sys2Proof.Machine.execRxRepeatFrame p s
  | .txHeader => Sys2Proof.Machine.execTxHeader s
  | .txBit1 => Sys2Proof.Machine.execTxBit1 s
  | .txBit0 => Sys2Proof.Machine.execTxBit0 s
  | .txStop => Sys2Proof.Machine.execTxStop s
  | .txRepeatFrame => Sys2Proof.Machine.execTxRepeatFrame s
  | .txWait => Sys2Proof.Machine.execTxWait s
  | .txOutput f n => Sys2Proof.Machine.execTxOutput f n s
  | .resultNone => Sys2Proof.Machine.execResultNone s
  | .resultCommand f => Sys2Proof.Machine.execResultCommand f s
  | .resultRepeat => Sys2Proof.Machine.execResultRepeat s
  | .causeMalformedInput => Sys2Proof.Machine.execCauseMalformedInput s
  | .causeTimingMismatch => Sys2Proof.Machine.execCauseTimingMismatch s
  | .causeBufferOverflow => Sys2Proof.Machine.execCauseBufferOverflow s
  | .causeChecksumMismatch => Sys2Proof.Machine.execCauseChecksumMismatch s

end Sys2Proof.Machine
end

