-- ==== Sys2Proof/Machine/Requests.lean ====
section
/-! DEFINITION. How the next turn is taken from the list of requests: which agent may request what
(spec/60_exceptions.md R231, spec/43_poll_and_host.md R203), that SENDs do not overlap (R205), and when the second phase of a POLL runs
(spec/43_poll_and_host.md R200, spec/20_memory.md R60). -/

namespace Sys2Proof.Machine

/-- The agent an operation belongs to, its parts included (R231); a word that is no operation belongs to none
(log entry 4). -/
def owner (i : Instr) : Option Agent :=
  match i with
  | .reset _ => some .platform
  | .edge _ _ => some .capture
  | .record _ _ => some .capture
  | .timeoutCheck _ => some .polling
  | .takeSnapshot => some .polling
  | .matchPulse _ _ => some .polling
  | .decode _ _ => some .polling
  | .poll _ _ => some .polling
  | .parseHex _ => some .transmit
  | .formatHex _ => some .transmit
  | .encode _ _ => some .transmit
  | .send _ _ => some .transmit
  | .necFrame _ => none
  | .hexText _ => none
  | .rxLeadIn _ => none
  | .rxHdrMark _ => none
  | .rxHdrSpace _ => none
  | .rxRptSpace _ => none
  | .rxBitMark _ _ => none
  | .rxOneSpace _ _ => none
  | .rxZeroSpace _ _ => none
  | .rxStandardFrame _ => none
  | .rxRepeatFrame _ => none
  | .txHeader => none
  | .txBit1 => none
  | .txBit0 => none
  | .txStop => none
  | .txRepeatFrame => none
  | .txWait => none
  | .txOutput _ _ => none
  | .resultNone => none
  | .resultCommand _ => none
  | .resultRepeat => none
  | .causeMalformedInput => none
  | .causeTimingMismatch => none
  | .causeBufferOverflow => none
  | .causeChecksumMismatch => none

/-- The two entry points of the dispatch collaborator (R203). -/
inductive EntryPoint where
  | decode | send
deriving DecidableEq, Repr

/-- `decode()` is POLL, `send` is SEND, and nothing else is an entry point (R203). -/
def entryPoint (i : Instr) : Option EntryPoint :=
  match i with
  | .reset _ => none
  | .edge _ _ => none
  | .record _ _ => none
  | .timeoutCheck _ => none
  | .takeSnapshot => none
  | .matchPulse _ _ => none
  | .decode _ _ => none
  | .poll _ _ => some .decode
  | .parseHex _ => none
  | .formatHex _ => none
  | .encode _ _ => none
  | .send _ _ => some .send
  | .necFrame _ => none
  | .hexText _ => none
  | .rxLeadIn _ => none
  | .rxHdrMark _ => none
  | .rxHdrSpace _ => none
  | .rxRptSpace _ => none
  | .rxBitMark _ _ => none
  | .rxOneSpace _ _ => none
  | .rxZeroSpace _ _ => none
  | .rxStandardFrame _ => none
  | .rxRepeatFrame _ => none
  | .txHeader => none
  | .txBit1 => none
  | .txBit0 => none
  | .txStop => none
  | .txRepeatFrame => none
  | .txWait => none
  | .txOutput _ _ => none
  | .resultNone => none
  | .resultCommand _ => none
  | .resultRepeat => none
  | .causeMalformedInput => none
  | .causeTimingMismatch => none
  | .causeBufferOverflow => none
  | .causeChecksumMismatch => none

/-- The agent may request the instruction: the test harness anything, the dispatch collaborator its entry points, any other
agent what it owns (R203, R231; log entry 12). -/
def mayRequest (a : Agent) (i : Instr) : Bool :=
  a == .harness || (a == .dispatch && (entryPoint i).isSome) || owner i == some a

/-- The request is a SEND and the carrier driver has not played the whole list of an earlier one (R205). -/
def sendOverlaps (s : State) (i : Instr) : Bool := entryPoint i == some .send && !s.playing.isEmpty

/-- The polling path is inside a POLL, so an operation of its own waits for the second phase: "within the polling path,
operations occur in the order requested" (R60). When that phase is refused, so is every such operation until
a RESET (log entry 7). -/
def pollComesFirst (s : State) (i : Instr) : Bool := s.go.isSome && owner i == some .polling

/-- What the next turn does. -/
inductive Action where
  /-- No operation runs. -/
  | idle (s : State)
  /-- The second phase of the POLL in flight. -/
  | phaseB (s : State)
  /-- An instruction runs. -/
  | run (i : Instr) (s : State)
  /-- The request is outside the contract. -/
  | stop (r : Refusal)
deriving DecidableEq, Repr

/-- The turn of a decoded request. -/
def requestTurn (a : Agent) (i : Instr) (rest : List Turn) (s : State) : Action :=
  if pollComesFirst s i then .phaseB s
  else if !mayRequest a i then .stop (.wrongAgent a)
  else if sendOverlaps s i then .stop .driverBusy
  else .run i (s.setRequests rest)

/-- The next turn: the first of the list. With no turn left, the POLL in flight is finished and then the block idles
(log entries 10 and 16). -/
def nextTurn (s : State) : Action :=
  match s.requests with
  | [] => if s.go.isSome then .phaseB s else .idle s
  | .resume :: rest => if s.go.isSome then .phaseB (s.setRequests rest) else .idle (s.setRequests rest)
  | .itemPlayed :: rest => .idle ((s.setPlaying s.playing.tail).setRequests rest)
  | .request a w :: rest =>
    match decode w with
    | .ok i => requestTurn a i rest s
    | .error e => .stop (.badWord e)

/-- Take away what would keep the instruction from being the next to run: a POLL in flight that would come first, and what the
carrier driver still plays before a SEND (log entry 16). -/
def clearWay (s : State) (i : Instr) : State :=
  if pollComesFirst s i then s.setGo none
  else if sendOverlaps s i then s.setPlaying []
  else s

/-- Place a word as the very next turn, requested by the harness, with its way cleared; nothing else changes (log entry 16). -/
def placeWord (s : State) (w : CodeWord) : State :=
  match decode w with
  | .ok i => (clearWay s i).setRequests (.request .harness w :: s.requests)
  | .error _ => s.setRequests (.request .harness w :: s.requests)

end Sys2Proof.Machine
end

