-- ==== Sys2Proof/Machine/Step.lean ====
section
/-! DEFINITION. One step: the next turn of the total order of atomic steps (spec/20_memory.md R60). -/

namespace Sys2Proof.Machine

/-- One step of the machine. -/
def step (s : State) : Host.Outcome State Fault Refusal :=
  match nextTurn s with
  | .idle s => .next s
  | .phaseB s => pollPhaseB s
  | .run i s => exec i s
  | .stop r => .refused r

/-- The state with a word of the opcode table placed as the next turn (log entry 16). -/
def State.withFetchWord (s : State) (nbits w : Nat) : State := placeWord s (tableCodeWord nbits w)

end Sys2Proof.Machine
end

