-- ==== Sys2Proof/Safety.lean ====
section
/-! DEFINITION. What a safe state is, and the spec's own terms in which claims are written: the clock premise, the
accepted ranges and layouts of received pulses, hexadecimal digits (spec/10_state.md R35, spec/60_exceptions.md R220,
spec/30_encoding.md R72 to R75). -/

namespace Sys2Proof.Machine

/-- The invariants of R35 on one state: the buffer's canonical form (I-1, I-2), and no stamp of the block later than the
clock (I-4). -/
structure State.Inv (s : State) : Prop where
  bufWf : Memory.wf s.block.buf = true
  edgeNotLater : s.block.lastEdgeTime ≤ s.clock
  commandNotLater : ∀ l, s.block.last = some l → l.time ≤ s.clock

/-- The stamps an instruction gives the block, in the order it gives them at once (R220): of a POLL the first phase's. -/
def instrStamp (i : Instr) : Option Nat :=
  match i with
  | .reset t0 => some t0
  | .edge t _ => some t
  | .timeoutCheck now => some now
  | .decode _ now => some now
  | .poll nowA _ => some nowA
  | .record _ _ => none
  | .takeSnapshot => none
  | .matchPulse _ _ => none
  | .parseHex _ => none
  | .formatHex _ => none
  | .encode _ _ => none
  | .send _ _ => none
  | .necFrame _ => none
  | .hexText _ => none
  | .rxLeadIn _ => none
  | .rxHdrMark _ => none
  | .rxHdrSpace _ => none
  | .rxRptSpace _ => none
  | .rxBitMark _ _ => none
  | .rxOneSpace _ _ => none
  | .rxZeroSpace _ _ => none
  | .rxStandardFrame _ => none
  | .rxRepeatFrame _ => none
  | .txHeader => none
  | .txBit1 => none
  | .txBit0 => none
  | .txStop => none
  | .txRepeatFrame => none
  | .txWait => none
  | .txOutput _ _ => none
  | .resultNone => none
  | .resultCommand _ => none
  | .resultRepeat => none
  | .causeMalformedInput => none
  | .causeTimingMismatch => none
  | .causeBufferOverflow => none
  | .causeChecksumMismatch => none

/-- The stamp is at least as large as every stamp the state knows to have been given earlier (R220). -/
def StampNotEarlier (s : State) (t : Nat) : Prop :=
  s.clock ≤ t ∧ s.block.lastEdgeTime ≤ t ∧ ∀ l, s.block.last = some l → l.time ≤ t

/-- The instruction meets the clock premise in the state: its stamp is no earlier than any given before, and the two
stamps of a POLL are in order (R220, R200). -/
def MeetsClockPremise (i : Instr) (s : State) : Prop :=
  (∀ t, instrStamp i = some t → StampNotEarlier s t) ∧
    ∀ nowA nowB, i = .poll nowA nowB → nowA ≤ nowB

/-- There is a pulse at position `k` and its duration lies in the accepted range, both ends included (R74). -/
def PulseIn (p : List Nat) (k lo hi : Nat) : Prop := ∃ d, p[k]? = some d ∧ lo ≤ d ∧ d ≤ hi

/-- The pulses after the lead-in, if the first is one (R132). -/
def WithoutLeadIn (s p : List Nat) : Prop :=
  (∃ d, 20000 < d ∧ s = d :: p) ∨ (s = p ∧ ∀ d, s.head? = some d → d ≤ 20000)

/-- The standard layout of R75 with the ranges of R74; bit `i` of the frame in line order is the one its space spells. -/
def StandardLayout (p : List Nat) (f : Frame) : Prop :=
  PulseIn p 0 8600 9400 ∧ PulseIn p 1 4100 4900 ∧
    ∀ i, i < 32 → PulseIn p (2 + 2 * i) 162 962 ∧
      (f.getLsbD (31 - i) = true → PulseIn p (3 + 2 * i) 1288 2088) ∧
      (f.getLsbD (31 - i) = false → PulseIn p (3 + 2 * i) 162 962)

/-- The repeat layout of R75 with the ranges of R74. -/
def RepeatLayout (p : List Nat) : Prop :=
  PulseIn p 0 8600 9400 ∧ PulseIn p 1 1850 2650 ∧ PulseIn p 2 162 962

/-- The character is a hexadecimal digit of either case, with its value (R72). -/
def HexDigitValue (c : Char) (v : Nat) : Prop :=
  (v < 10 ∧ c = Char.ofNat ('0'.toNat + v)) ∨
    (10 ≤ v ∧ v < 16 ∧ (c = Char.ofNat ('A'.toNat + (v - 10)) ∨ c = Char.ofNat ('a'.toNat + (v - 10))))

/-- The diagnostics of a frame whose checksum predicates fail, address first (R73, R138, R172). -/
def checksumDiags (addrDiag cmdDiag : Diag) (f : Frame) : List Event :=
  (if f.extractLsb 31 24 ^^^ f.extractLsb 23 16 = 0xFF#8 then [] else [.diag addrDiag]) ++
    (if f.extractLsb 15 8 ^^^ f.extractLsb 7 0 = 0xFF#8 then [] else [.diag cmdDiag])

end Sys2Proof.Machine
end

