-- ==== Sys2Proof/Certificates/Slice0/Obligations.lean ====
section
/-! DEFINITION. The statements about the model, for the provers. Each docstring names the rule of spec/ it formalises.
`outputs`, `clock` and `playing` are the model's own fields (log entries 6, 7 and 21): what the rules call an output stands at
the end of `outputs`, `clock` holds the stamp the operation was given, `playing` what the carrier driver has still to play. -/

open Sys2Proof Sys2Proof.Machine

/-! ### Reset, the clock premise, totality -/

/-- R34: after RESET(`T0`) the block holds the reset values, whatever it held before. That a POLL in flight ends
and that the carrier driver plays on is the model's reading (log entry 11). -/
def Obligations.ResetLeavesTheResetValues : Prop :=
  ∀ (t0 : Nat) (s : State), StampNotEarlier s t0 →
    exec (.reset t0) s =
      .next { s with
        block := { buf := [], ready := false, lastEdgeTime := t0, last := none }
        go := none
        clock := t0 }

/-- R251: after RESET every instruction that meets the clock premise runs at once, when the harness requests it, also after a RESET
inside a POLL (log entry 11) or with earlier turns still to come. A SEND waits, by R205, for the items of an earlier one (log
entry 21). That the rows that are no operation run too is the model's choice (log entry 4), as is the harness's right to them. -/
def Obligations.AfterResetEveryInstructionIsAccepted : Prop :=
  ∀ (t0 : Nat) (s t : State) (w : CodeWord) (i : Instr) (rest : List Turn),
    exec (.reset t0) s = .next t → decode w = .ok i → MeetsClockPremise i t →
      ((∀ code n, i ≠ .send code n) ∨ s.playing = []) →
        ∃ u, step { t with requests := .request .harness w :: rest } = .next u ∧
          exec i { t with requests := rest } = .next u

/-- R35 (I-1), (I-2), (I-4) hold in the state after reset; its `T0` and clock are the model's choice (log entry 8). -/
def Obligations.ResetStateMeetsInvariant : Prop := State.Inv State.reset

/-- R35: every step keeps the invariants (I-1), (I-2) and (I-4), from every state that has them. -/
def Obligations.StepKeepsInvariant : Prop :=
  ∀ s t : State, State.Inv s → step s = .next t → State.Inv t

/-- R236: every operation that meets the clock premise answers a next state, from every state. That the 25 rows of the opcode table
that are no operation do so too is the model's choice (log entries 4 and 5), and what the premise is for a POLL its reading (log
entry 7). -/
def Obligations.EveryInstructionCompletesOnMonotoneClock : Prop :=
  ∀ (i : Instr) (s : State), MeetsClockPremise i s → ∃ t, exec i s = .next t

/-- R220: an operation whose time stamp lies before an earlier one is given no step. -/
def Obligations.StampBeforeTheClockIsRefused : Prop :=
  ∀ (t u : Nat) (level : Bool) (p : List Nat) (s : State),
    (t < s.clock ∨ t < s.block.lastEdgeTime ∨ ∃ l, s.block.last = some l ∧ t < l.time) →
      exec (.reset t) s = .refused .clockNotMonotone ∧
      exec (.edge t level) s = .refused .clockNotMonotone ∧
      exec (.timeoutCheck t) s = .refused .clockNotMonotone ∧
      exec (.decode p t) s = .refused .clockNotMonotone ∧
      exec (.poll t u) s = .refused .clockNotMonotone

/-- What `exec` itself refuses: nothing but what breaks the clock premise (R220, R236). R236 also refuses a wrong agent and an
unassigned number: these the step refuses, before any instruction runs. That the 25 rows that are no operation are never refused is
the model's choice (log entries 4 and 5), that POLL stamps out of order break the premise its reading (log entry 7). No operation
traps (R227), so `Fault` has no constructor and the fault clause says no more than that. -/
def Obligations.OnlyTheClockPremiseStopsAnInstruction : Prop :=
  ∀ (i : Instr) (s : State),
    (∀ r, exec i s ≠ .fault r) ∧
      ∀ r, exec i s = .refused r → r = .clockNotMonotone ∧ ¬ MeetsClockPremise i s

/-! ### Capture -/

/-- R101: EDGE is RECORD of the time since the last edge, in one step; the time of the edge is noted whatever becomes of the
pulse, and the repeat state, `go`, what the driver plays and the turns stay. -/
def Obligations.EdgeRecordsTheTimeSinceTheLastEdge : Prop :=
  ∀ (t : Nat) (level : Bool) (s : State), StampNotEarlier s t →
    ∃ u, exec (.edge t level) s = .next u ∧
      exec (.record (t - s.block.lastEdgeTime) level)
        { s with block.lastEdgeTime := t, clock := t } = .next u ∧
      u.block.lastEdgeTime = t ∧ u.clock = t ∧ u.block.last = s.block.last ∧
      u.go = s.go ∧ u.idleLevel = s.idleLevel ∧ u.playing = s.playing ∧ u.requests = s.requests

/-- R102 to R105: RECORD ignores noise, clears a full buffer, or stores the pulse and evaluates readiness with the new
length; nothing else of the state changes. -/
def Obligations.RecordIgnoresDropsOrStores : Prop :=
  ∀ (d : Nat) (level : Bool) (s : State),
    (d < 100 →
      exec (.record d level) s =
        .next { s with outputs := s.outputs ++ [.recordOutcome .ignored] }) ∧
    (100 ≤ d → s.block.buf.length = 100 →
      exec (.record d level) s =
        .next { s with
          block.buf := []
          outputs := s.outputs ++ [.diag .overflow, .recordOutcome .dropped] }) ∧
    (100 ≤ d → s.block.buf.length ≠ 100 →
      exec (.record d level) s =
        .next { s with
          block.buf := s.block.buf ++ [d]
          block.ready := s.block.ready ||
            decide ((level = s.idleLevel ∧ d > 30000 ∧ s.block.buf.length + 1 > 30) ∨
              s.block.buf.length + 1 > 67)
          outputs := s.outputs ++ [.recordOutcome .stored] })

/-- R108: TIMEOUT_CHECK sets `ready` when more than 10 pulses wait and the last edge is more than 70000 µs ago; it changes
nothing else of the block. -/
def Obligations.TimeoutCheckForcesReady : Prop :=
  ∀ (now : Nat) (s : State), StampNotEarlier s now →
    exec (.timeoutCheck now) s =
      .next { s with
        block.ready := s.block.ready ||
          decide (s.block.buf.length > 10 ∧ now - s.block.lastEdgeTime > 70000)
        clock := now }

/-- R109: TAKE_SNAPSHOT returns the whole sequence, empties the buffer and clears `ready`, in every state. -/
def Obligations.TakeSnapshotExchangesTheBuffer : Prop :=
  ∀ s : State,
    exec .takeSnapshot s =
      .next { s with
        block.buf := []
        block.ready := false
        outputs := s.outputs ++ [.snapshot s.block.buf] }

/-- R22: once set, `ready` stays set through every instruction but TAKE_SNAPSHOT and RESET. -/
def Obligations.ReadyIsStickyUntilSnapshotOrReset : Prop :=
  ∀ (i : Instr) (s t : State), exec i s = .next t → s.block.ready = true → t.block.ready = false →
    i = .takeSnapshot ∨ ∃ t0, i = .reset t0

/-- R50, R55: an instruction leaves the buffer, or appends one pulse of at least 100, or empties it; it is emptied only by
TAKE_SNAPSHOT, which hands out all of it, by RESET, and by the overflow clear of a full buffer. -/
def Obligations.PulsesLeaveOnlyAllTogether : Prop :=
  ∀ (i : Instr) (s t : State), exec i s = .next t →
    t.block.buf = s.block.buf ∨
    (∃ d, 100 ≤ d ∧ t.block.buf = s.block.buf ++ [d]) ∨
    (t.block.buf = [] ∧
      ((i = .takeSnapshot ∧ t.outputs = s.outputs ++ [.snapshot s.block.buf]) ∨
        (∃ t0, i = .reset t0) ∨
        (s.block.buf.length = 100 ∧ ((∃ d level, i = .record d level) ∨ ∃ u level, i = .edge u level))))

/-- R36: which instruction may write which element of the block. -/
def Obligations.OnlyItsWritersWriteAnElement : Prop :=
  ∀ (i : Instr) (s t : State), exec i s = .next t →
    (t.block.buf ≠ s.block.buf →
      (∃ t0, i = .reset t0) ∨ (∃ u level, i = .edge u level) ∨ (∃ d level, i = .record d level) ∨
        i = .takeSnapshot) ∧
    (t.block.ready ≠ s.block.ready →
      (∃ t0, i = .reset t0) ∨ (∃ u level, i = .edge u level) ∨ (∃ d level, i = .record d level) ∨
        (∃ now, i = .timeoutCheck now) ∨ i = .takeSnapshot ∨ ∃ nowA nowB, i = .poll nowA nowB) ∧
    (t.block.lastEdgeTime ≠ s.block.lastEdgeTime →
      (∃ t0, i = .reset t0) ∨ ∃ u level, i = .edge u level) ∧
    (t.block.last ≠ s.block.last →
      (∃ t0, i = .reset t0) ∨ ∃ p now, i = .decode p now)

/-- R14, R226, R252: outputs are only added, and no instruction touches `IDLE_LEVEL` or the turns to come. Only POLL and RESET
change `go`, RESET to none, and only SEND gives the carrier driver items: the model's reading and choice (log entries 11, 21). -/
def Obligations.InstructionsOnlyAddOutputs : Prop :=
  ∀ (i : Instr) (s t : State), exec i s = .next t →
    (∃ l, t.outputs = s.outputs ++ l) ∧ t.idleLevel = s.idleLevel ∧ t.requests = s.requests ∧
      (t.go ≠ s.go → (∃ nowA nowB, i = .poll nowA nowB) ∨ (t.go = none ∧ ∃ t0, i = .reset t0)) ∧
      (t.playing ≠ s.playing → ∃ code n, i = .send code n)

/-! ### The decoder -/

/-- R130: MATCH answers whether the duration lies within 400 µs of the expected value, both bounds included. R130 gives this for
the constants of R7; that the test is made for every other expected value is the model's reading (log entry 19). -/
def Obligations.MatchAcceptsExactlyTheToleranceBand : Prop :=
  ∀ (d e : Nat) (s : State),
    exec (.matchPulse d e) s =
      .next { s with
        outputs := s.outputs ++ [.matchBit (decide ((e : Int) - 400 ≤ d ∧ (d : Int) ≤ e + 400))] }

/-- R77: no duration spells both bit values, and none spells both the header space and the repeat space. -/
def Obligations.ReceiveRangesThatMustBeDisjointAre : Prop :=
  ∀ d : Nat,
    ¬ (spellsSymbol .oneSpace d = true ∧ spellsSymbol .zeroSpace d = true) ∧
    ¬ (spellsSymbol .hdrSpace d = true ∧ spellsSymbol .rptSpace d = true)

/-- R131, R135 to R139: on the standard layout of a frame, after the lead-in, DECODE returns `Command` of that frame, reports
its failing checksums, and writes the repeat state; nothing else of the block changes. -/
def Obligations.DecodeOfStandardFrameIsItsCommand : Prop :=
  ∀ (raw p : List Nat) (f : Frame) (now : Nat) (s : State),
    StampNotEarlier s now → WithoutLeadIn raw p → StandardLayout p f →
      exec (.decode raw now) s =
        .next { s with
          block.last := some ⟨f, now⟩
          clock := now
          outputs := s.outputs ++ checksumDiags .rxAddrChecksum .rxCmdChecksum f ++
            [.decodeResult (.command f)] }

/-- R134, R140: on a repeat-shaped sequence DECODE returns `Repeat` when a `Command` was decoded less than 450000 µs before, and
`None` otherwise; the block does not change. -/
def Obligations.DecodeOfRepeatShapeLooksAtTheWindow : Prop :=
  ∀ (raw p : List Nat) (now : Nat) (s : State),
    StampNotEarlier s now → WithoutLeadIn raw p → RepeatLayout p →
      ((∃ l, s.block.last = some l ∧ now - l.time < 450000) →
        exec (.decode raw now) s =
          .next { s with clock := now, outputs := s.outputs ++ [.decodeResult .repeatFrame] }) ∧
      ((∀ l, s.block.last = some l → 450000 ≤ now - l.time) →
        exec (.decode raw now) s =
          .next { s with clock := now, outputs := s.outputs ++ [.decodeResult .none] })

/-- R131, R140: a sequence of neither layout decodes to `None` and the block does not change. -/
def Obligations.DecodeOfNeitherLayoutIsNone : Prop :=
  ∀ (raw p : List Nat) (now : Nat) (s : State),
    StampNotEarlier s now → WithoutLeadIn raw p → ¬ RepeatLayout p → (∀ f, ¬ StandardLayout p f) →
      exec (.decode raw now) s =
        .next { s with clock := now, outputs := s.outputs ++ [.decodeResult .none] }

/-- R144 (3): `Command(F)` is what DECODE returns exactly on the standard layout of `F`. -/
def Obligations.CommandExactlyOnStandardLayout : Prop :=
  ∀ (raw p : List Nat) (f : Frame) (now : Nat) (s : State),
    StampNotEarlier s now → WithoutLeadIn raw p →
      ((∃ t, exec (.decode raw now) s = .next t ∧
          t.outputs.getLast? = some (.decodeResult (.command f))) ↔
        StandardLayout p f)

/-- R132: a first pulse above 20000 is discarded, once: a second long pulse makes the decode fail. -/
def Obligations.LeadInIsDiscardedOnce : Prop :=
  ∀ (d : Nat) (p : List Nat) (now : Nat) (s : State), StampNotEarlier s now → 20000 < d →
    ((∀ e, p.head? = some e → e ≤ 20000) → exec (.decode (d :: p) now) s = exec (.decode p now) s) ∧
    ((∃ e, p.head? = some e ∧ 20000 < e) →
      exec (.decode (d :: p) now) s =
        .next { s with clock := now, outputs := s.outputs ++ [.decodeResult .none] })

/-- R144 (2): DECODE reads at most the first 67 pulses. -/
def Obligations.DecodeReadsAtMost67Pulses : Prop :=
  ∀ (raw : List Nat) (now : Nat) (s : State),
    exec (.decode (raw.take 67) now) s = exec (.decode raw now) s

/-- R143: the pulse-by-pulse form gives the result and the state update of DECODE, for every sequence and repeat state. -/
def Obligations.PulseByPulseFormAgreesWithDecode : Prop :=
  ∀ (raw : List Nat) (now : Nat) (s : State), StampNotEarlier s now →
    ∃ t, exec (.decode raw now) s = .next t ∧
      t.outputs.getLast? = some (.decodeResult (fsmResult raw s.block.last now)) ∧
      t.block =
        match fsmResult raw s.block.last now with
        | .command f => { s.block with last := some ⟨f, now⟩ }
        | .repeatFrame => s.block
        | .none => s.block

/-- R35 (I-3): a repeat state that holds a `Command` holds one after every instruction but RESET. -/
def Obligations.RepeatStateIsForgottenOnlyByReset : Prop :=
  ∀ (i : Instr) (s t : State), exec i s = .next t → s.block.last.isSome = true →
    t.block.last.isSome = true ∨ ∃ t0, i = .reset t0

/-- R144 (5): DECODE of the non-zero durations of the first 68 segments of `ENCODE(F, 0)` returns `Command(F)`. -/
def Obligations.EncodedFrameDecodesToItself : Prop :=
  ∀ (f : Frame) (now : Nat) (s : State), StampNotEarlier s now →
    exec (.decode (loopbackPulses ((encodeItems f 0).take 68)) now) s =
      .next { s with
        block.last := some ⟨f, now⟩
        clock := now
        outputs := s.outputs ++ checksumDiags .rxAddrChecksum .rxCmdChecksum f ++
          [.decodeResult (.command f)] }

/-! ### Polling -/

/-- R200, phase A: the time-out is checked, and `ready` decides whether the POLL goes on to phase B (the model keeps `now_B`
with `go`, log entry 10) or answers `None` and does nothing else to the block. That the clock is then `now_A`, so that the unused
`now_B` counts as no stamp given, is the model's reading of R220 (log entry 7). -/
def Obligations.PollPhaseAChecksTimeoutThenReady : Prop :=
  ∀ (nowA nowB : Nat) (s : State), nowA ≤ nowB → StampNotEarlier s nowA →
    ((s.block.ready = true ∨ (s.block.buf.length > 10 ∧ nowA - s.block.lastEdgeTime > 70000)) →
      exec (.poll nowA nowB) s =
        .next { s with block.ready := true, clock := nowA, go := some nowB }) ∧
    (s.block.ready = false → ¬ (s.block.buf.length > 10 ∧ nowA - s.block.lastEdgeTime > 70000) →
      exec (.poll nowA nowB) s =
        .next { s with
          clock := nowA
          go := none
          outputs := s.outputs ++ [.decodeResult .none] })

/-- R200: a POLL whose second stamp lies before its first breaks the operands' premise (refused by the model, log entry 7). -/
def Obligations.PollWithStampsOutOfOrderIsRefused : Prop :=
  ∀ (nowA nowB : Nat) (s : State), nowB < nowA → exec (.poll nowA nowB) s = .refused .clockNotMonotone

/-- R200, phase B: the step in which the polling path goes on takes the snapshot and decodes it; afterwards the buffer is empty
and `ready` is 0. When phase B runs is the model's reading (log entry 10). -/
def Obligations.PollPhaseBDecodesTheSnapshot : Prop :=
  ∀ (s : State) (nowB : Nat), s.go = some nowB → StampNotEarlier s nowB →
    (s.requests = [] ∨ s.requests.head? = some .resume) →
      ∃ t, step s = .next t ∧
        exec (.decode s.block.buf nowB)
          { s with block.buf := [], block.ready := false, go := none, requests := s.requests.tail } = .next t ∧
        t.block.buf = [] ∧ t.block.ready = false ∧ t.go = none ∧ t.requests = s.requests.tail

/-- R201: DECODE commutes with EDGE on the block, when both are given the same instant. -/
def Obligations.DecodeCommutesWithEdge : Prop :=
  ∀ (p : List Nat) (t : Nat) (level : Bool) (s a b : State),
    exec (.decode p t) s = .next a → exec (.edge t level) a = .next b →
      ∃ a' b', exec (.edge t level) s = .next a' ∧ exec (.decode p t) a' = .next b' ∧
        b'.block = b.block

/-! ### The encoder -/

/-- R170: PARSE_HEX tests the length, then the digits, and else returns the frame whose 4-bit groups the digits are. What counts as
one character is the model's choice (log entry 20). The output is the failure alone; the reason label is what PARSE_HEX hands to an
operation that calls it, `parseText` here (R222, D20; log entry 24). -/
def Obligations.ParseHexReadsEightDigits : Prop :=
  ∀ (text : List Char) (s : State),
    (text.length ≠ 8 → parseText text = .error .badLength ∧
      exec (.parseHex text) s = .next { s with outputs := s.outputs ++ [.encodeError] }) ∧
    (text.length = 8 → (∃ c, c ∈ text ∧ ∀ v, ¬ HexDigitValue c v) → parseText text = .error .badDigit ∧
      exec (.parseHex text) s = .next { s with outputs := s.outputs ++ [.encodeError] }) ∧
    (text.length = 8 → (∀ c, c ∈ text → ∃ v, HexDigitValue c v) →
      ∃ f : Frame, parseText text = .ok f ∧ exec (.parseHex text) s = .next { s with outputs := s.outputs ++ [.frameWord f] } ∧
        ∀ k c, text[k]? = some c → HexDigitValue c (f.extractLsb' (28 - 4 * k) 4).toNat)

/-- R171: FORMAT_HEX returns 8 characters, each the upper-case digit of its 4 bits of the frame. -/
def Obligations.FormatHexSpellsUpperCaseDigits : Prop :=
  ∀ (f : Frame) (s : State),
    ∃ text : List Char, exec (.formatHex f) s = .next { s with outputs := s.outputs ++ [.hexText text] } ∧
      text.length = 8 ∧
      ∀ k, k < 8 → ∃ c, text[k]? = some c ∧ HexDigitValue c (f.extractLsb' (28 - 4 * k) 4).toNat ∧
        ¬ ('a'.toNat ≤ c.toNat ∧ c.toNat ≤ 'f'.toNat)

/-- R171: `PARSE_HEX(FORMAT_HEX(F)) = F`. -/
def Obligations.ParseOfFormatIsTheFrame : Prop :=
  ∀ (f : Frame) (text : List Char) (s t : State),
    exec (.formatHex f) s = .next { s with outputs := s.outputs ++ [.hexText text] } →
      exec (.parseHex text) t = .next { t with outputs := t.outputs ++ [.frameWord f] }

/-- R172, R173, R177: ENCODE emits the warnings of failing checksums and the items of the closed form, and writes no state. -/
def Obligations.EncodeEmitsTheClosedForm : Prop :=
  ∀ (f : Frame) (n : Nat) (s : State),
    ∃ l : List Item,
      exec (.encode f n) s =
        .next { s with
          outputs := s.outputs ++ checksumDiags .txAddrChecksum .txCmdChecksum f ++ [.items l] } ∧
      l.length = 69 + 6 * n ∧ l[0]? = some (.seg true 9000) ∧ l[1]? = some (.seg false 4500) ∧
      (∀ i, i < 32 → l[2 + 2 * i]? = some (.seg true 560) ∧
        l[3 + 2 * i]? = some (.seg false (if f.getLsbD (31 - i) then 1690 else 560))) ∧
      l[66]? = some (.seg true 560) ∧ l[67]? = some (.seg false 0) ∧ l[68]? = some (.gap 40000) ∧
      ∀ q, q < n →
        l[69 + 6 * q]? = some (.gap 40000) ∧ l[69 + 6 * q + 1]? = some (.seg true 9000) ∧
        l[69 + 6 * q + 2]? = some (.seg false 2250) ∧ l[69 + 6 * q + 3]? = some (.seg true 560) ∧
        l[69 + 6 * q + 4]? = some (.seg false 0) ∧ l[69 + 6 * q + 5]? = some (.gap 40000)

/-- R176: the counts and the nominal time of `ENCODE(F, n)`. -/
def Obligations.EncodeCountsAndNominalTime : Prop :=
  ∀ (f : Frame) (n : Nat),
    (encodeItems f n).countP isSegment = 68 + 4 * n ∧
    (encodeItems f n).countP (fun x => !isSegment x) = 1 + 2 * n ∧
    (encodeItems f n).length = 69 + 6 * n ∧
    nominalTime (encodeItems f n) =
      49900 + 1130 * (List.range 32).countP (fun k => f.getLsbD k) + 40000 + 91810 * n

/-- R178: SEND of a text is PARSE_HEX then ENCODE: it replies success with ENCODE's items and warnings, or failure with no item. On success
the items go to the carrier driver (R206; that they are kept in a field is the model's, log entry 21). -/
def Obligations.SendIsParseThenEncode : Prop :=
  ∀ (text : List Char) (n : Nat) (s : State),
    (∀ f l w, exec (.parseHex text) s = .next { s with outputs := s.outputs ++ [.frameWord f] } →
      exec (.encode f n) s = .next { s with outputs := s.outputs ++ w ++ [.items l] } →
        exec (.send (.text text) n) s =
          .next { s with
            playing := s.playing ++ l
            outputs := s.outputs ++ w ++ [.sendReply true l] }) ∧
    (exec (.parseHex text) s = .next { s with outputs := s.outputs ++ [.encodeError] } →
      exec (.send (.text text) n) s = .next { s with outputs := s.outputs ++ [.sendReply false []] }) ∧
    ∃ ok w l, exec (.send (.text text) n) s =
      .next { s with playing := s.playing ++ l, outputs := s.outputs ++ w ++ [.sendReply ok l] }

/-- R204, R178: SEND of a frame word has no failure case: it replies success with ENCODE's items and warnings, and the items go to
the carrier driver (that they are kept in a field is the model's, log entry 21; how the request looks, log entry 1). -/
def Obligations.SendOfAFrameAlwaysSucceeds : Prop :=
  ∀ (f : Frame) (n : Nat) (s : State),
    ∃ w l, exec (.encode f n) s = .next { s with outputs := s.outputs ++ w ++ [.items l] } ∧
      w = checksumDiags .txAddrChecksum .txCmdChecksum f ∧ l.length = 69 + 6 * n ∧
      exec (.send (.frame f) n) s =
        .next { s with
          playing := s.playing ++ l
          outputs := s.outputs ++ w ++ [.sendReply true l] }

/-! ### The words of the encodings -/

/-- R71, R73: a frame word is its four fields, most significant first, with the two checksum predicates. That the row reports
them as an output is the model's choice (log entry 4). -/
def Obligations.FrameWordSplitsIntoItsFields : Prop :=
  ∀ (addr naddr cmd ncmd : Byte) (s : State),
    exec (.necFrame (addr ++ naddr ++ cmd ++ ncmd)) s =
      .next { s with
        outputs := s.outputs ++ [.frameFields addr naddr cmd ncmd
          (decide (addr ^^^ naddr = 0xFF#8)) (decide (cmd ^^^ ncmd = 0xFF#8))] }

/-- R72: a well-formed hex text spells the frame PARSE_HEX reads from it. -/
def Obligations.HexTextSpellsItsFrame : Prop :=
  ∀ (text : List Char) (s : State), (Instr.hexText text).WellFormed →
    ∃ f, exec (.hexText text) s = .next { s with outputs := s.outputs ++ [.frameWord f] } ∧
      exec (.parseHex text) s = .next { s with outputs := s.outputs ++ [.frameWord f] }

/-- R74: the receive symbols without a bit: a duration spells the symbol exactly in its accepted range. That the row reports it
is the model's choice (log entry 4). -/
def Obligations.ReceiveSymbolsHaveTheirRanges : Prop :=
  ∀ (d : Nat) (i : Fin 32) (s : State),
    exec (.rxLeadIn d) s =
      .next { s with outputs := s.outputs ++ [.symbol .leadIn (decide (20000 < d))] } ∧
    exec (.rxHdrMark d) s =
      .next { s with outputs := s.outputs ++ [.symbol .hdrMark (decide (8600 ≤ d ∧ d ≤ 9400))] } ∧
    exec (.rxHdrSpace d) s =
      .next { s with outputs := s.outputs ++ [.symbol .hdrSpace (decide (4100 ≤ d ∧ d ≤ 4900))] } ∧
    exec (.rxRptSpace d) s =
      .next { s with outputs := s.outputs ++ [.symbol .rptSpace (decide (1850 ≤ d ∧ d ≤ 2650))] } ∧
    exec (.rxBitMark i d) s =
      .next { s with outputs := s.outputs ++ [.symbol .bitMark (decide (162 ≤ d ∧ d ≤ 962))] }

/-- R74: the two bit spaces: in its range the symbol gives its bit, outside none. That the row reports it is the model's choice
(log entry 4). -/
def Obligations.ReceiveSpacesGiveTheirBit : Prop :=
  ∀ (d : Nat) (i : Fin 32) (s : State),
    (1288 ≤ d ∧ d ≤ 2088 → exec (.rxOneSpace i d) s =
      .next { s with outputs := s.outputs ++ [.symbol .oneSpace true, .lineBit i true] }) ∧
    (¬ (1288 ≤ d ∧ d ≤ 2088) → exec (.rxOneSpace i d) s =
      .next { s with outputs := s.outputs ++ [.symbol .oneSpace false] }) ∧
    (162 ≤ d ∧ d ≤ 962 → exec (.rxZeroSpace i d) s =
      .next { s with outputs := s.outputs ++ [.symbol .zeroSpace true, .lineBit i false] }) ∧
    (¬ (162 ≤ d ∧ d ≤ 962) → exec (.rxZeroSpace i d) s =
      .next { s with outputs := s.outputs ++ [.symbol .zeroSpace false] })

/-- R75, R76: a received sequence of the standard layout spells its frame, one of the repeat layout is a repeat frame, any
other is neither. That the rows report it is the model's choice (log entry 4). -/
def Obligations.ReceivedLayoutsAreRecognised : Prop :=
  ∀ (raw p : List Nat) (s : State), WithoutLeadIn raw p →
    (∀ f, StandardLayout p f → exec (.rxStandardFrame raw) s =
      .next { s with outputs := s.outputs ++ [.frameWord f] }) ∧
    ((∀ f, ¬ StandardLayout p f) → exec (.rxStandardFrame raw) s =
      .next { s with outputs := s.outputs ++ [.noLayout] }) ∧
    (RepeatLayout p → exec (.rxRepeatFrame raw) s =
      .next { s with outputs := s.outputs ++ [.repeatLayout] }) ∧
    (¬ RepeatLayout p → exec (.rxRepeatFrame raw) s =
      .next { s with outputs := s.outputs ++ [.noLayout] })

/-- R78: the items of every transmit symbol. -/
def Obligations.TransmitSymbolsEmitTheirItems : Prop :=
  ∀ s : State,
    exec .txHeader s =
      .next { s with outputs := s.outputs ++ [.items [.seg true 9000, .seg false 4500]] } ∧
    exec .txBit1 s =
      .next { s with outputs := s.outputs ++ [.items [.seg true 560, .seg false 1690]] } ∧
    exec .txBit0 s =
      .next { s with outputs := s.outputs ++ [.items [.seg true 560, .seg false 560]] } ∧
    exec .txStop s =
      .next { s with outputs := s.outputs ++ [.items [.seg true 560, .seg false 0]] } ∧
    exec .txRepeatFrame s =
      .next { s with
        outputs := s.outputs ++
          [.items [.seg true 9000, .seg false 2250, .seg true 560, .seg false 0]] } ∧
    exec .txWait s = .next { s with outputs := s.outputs ++ [.items [.gap 40000]] }

/-- R79, R173: the whole output for a frame and a repeat count is built of the transmit symbols: header, the bits from the most
significant on, stop, wait, and per repeat wait, repeat frame, wait. -/
def Obligations.TransmitOutputIsBuiltOfSymbols : Prop :=
  ∀ (f : Frame) (n : Nat) (s : State),
    exec (.txOutput f n) s =
      .next { s with
        outputs := s.outputs ++ [.items
          ([.seg true 9000, .seg false 4500] ++
            (List.range 32).flatMap (fun i =>
              [.seg true 560, .seg false (if f.getLsbD (31 - i) then 1690 else 560)]) ++
            [.seg true 560, .seg false 0] ++ [.gap 40000] ++
            (List.replicate n
              [.gap 40000, .seg true 9000, .seg false 2250, .seg true 560, .seg false 0,
                .gap 40000]).flatten)] }

/-- R16: the three results, as the replies they are. That a row reports its reply is the model's choice (log entry 4). -/
def Obligations.ResultRowsReplyTheirResult : Prop :=
  ∀ (f : Frame) (s : State),
    exec .resultNone s = .next { s with outputs := s.outputs ++ [.decodeResult .none] } ∧
    exec (.resultCommand f) s =
      .next { s with outputs := s.outputs ++ [.decodeResult (.command f)] } ∧
    exec .resultRepeat s = .next { s with outputs := s.outputs ++ [.decodeResult .repeatFrame] }

/-- R221: what its table says of each cause, the effect on the state and what the caller sees. A code is a label (D2): that a row
reports its line of the table, and changes nothing of the block, is the model's choice (log entry 5). -/
def Obligations.CauseRowsReportTheirLine : Prop :=
  ∀ s : State,
    exec .causeMalformedInput s =
      .next { s with
        outputs := s.outputs ++ [.cause .malformedInput .unchanged .encodeErrorOrFailedSend] } ∧
    exec .causeTimingMismatch s =
      .next { s with outputs := s.outputs ++ [.cause .timingMismatch .unchanged .noneResult] } ∧
    exec .causeBufferOverflow s =
      .next { s with outputs := s.outputs ++ [.cause .bufferOverflow .emptiesBuffer .overflowDiag] } ∧
    exec .causeChecksumMismatch s =
      .next { s with
        outputs := s.outputs ++ [.cause .checksumMismatch .unchanged .resultWithDiagnostic] }

/-! ### Words, turns and steps -/

/-- Decoding the word of a well-formed instruction gives the instruction back. -/
def Obligations.DecodeOfEncodeIsTheInstruction : Prop :=
  ∀ i : Instr, i.WellFormed → decode (encode i) = .ok i

/-- A word that decodes is the word of the well-formed instruction it decodes to: no two words mean the same. -/
def Obligations.DecodedWordIsItsEncoding : Prop :=
  ∀ (w : CodeWord) (i : Instr), decode w = .ok i → i.WellFormed ∧ encode i = w

/-- R83: operation numbers 12 to 15 and result tag 3 are refused. -/
def Obligations.UnassignedNumbersAreRefused : Prop :=
  (∀ (number : BitVec 4) (operands : List Operand), 12 ≤ number.toNat →
    decode (.op number operands) = .error .unassignedOperation) ∧
  ∀ payload : Option Frame, decode (.result 3 payload) = .error .unassignedTag

/-- Words written out from the spec's encodings decode to what they stand for: of the formats OP, NEC32, HEX8, RXSYM, RXFRAME, TXSYM,
RESULT and CAUSE, not of TXFRAME. That an operation is a number with a tuple of operands, and how the words of the other formats
look, is the model's choice (log entries 1 and 2; the positions of RXSYM, log entry 18). -/
def Obligations.SpecWordsDecode : Prop :=
  decode (.op 1 [.num 10000, .num 1]) = .ok (.edge 10000 true) ∧
  decode (.op 6 [.seq [9000, 2250, 560], .num 5]) = .ok (.decode [9000, 2250, 560] 5) ∧
  decode (.op 7 [.num 70001, .num 70003]) = .ok (.poll 70001 70003) ∧
  decode (.op 10 [.num 0x768910EF, .num 0]) = .ok (.encode 0x768910EF 0) ∧
  decode (.nec32 0x768910EF) = .ok (.necFrame 0x768910EF) ∧
  decode (.hex8 "768910EF".toList) = .ok (.hexText "768910EF".toList) ∧
  decode (.rxSym 1 2650) = .ok (.rxRptSpace 2650) ∧
  decode (.rxFrame [9000, 2250, 560]) = .ok (.rxRepeatFrame [9000, 2250, 560]) ∧
  decode (.txSym [.seg true 560, .seg false 1690]) = .ok .txBit1 ∧
  decode (.result 0 none) = .ok .resultNone ∧
  decode (.result 1 (some 0x768910EF)) = .ok (.resultCommand 0x768910EF) ∧
  decode (.result 2 none) = .ok .resultRepeat ∧
  decode (.cause 3) = .ok .causeBufferOverflow

/-- When the next turn is a request whose word decodes, whose agent may make it, and which no POLL in flight precedes and no SEND
still being played forbids, the step is that instruction on the state with the turn taken off (the turns are the model's own,
log entries 1, 10 and 21). That the harness may request every instruction, the rows that are no operation included, and an owner
the parts alone, is the model's reading of R203 and R231 (log entries 4 and 12). -/
def Obligations.StepRunsTheDecodedInstruction : Prop :=
  ∀ (s : State) (a : Agent) (w : CodeWord) (i : Instr) (rest : List Turn),
    s.requests = .request a w :: rest → decode w = .ok i → (s.go = none ∨ owner i ≠ some .polling) →
      ((∀ code n, i ≠ .send code n) ∨ s.playing = []) →
      (a = .harness ∨ owner i = some a) → step s = exec i { s with requests := rest }

/-- A word of the opcode table placed as the next turn is what the next step runs; only a POLL in flight that would come first, and
what the carrier driver still plays before a SEND, are taken away (the placing is the model's own, log entry 16). -/
def Obligations.PlacedTableWordRunsNext : Prop :=
  ∀ (s : State) (nbits w : Nat) (i : Instr), decodeTableWord nbits w = some i →
    ((s.go = none ∨ owner i ≠ some .polling) → ((∀ code n, i ≠ .send code n) ∨ s.playing = []) →
      step (s.withFetchWord nbits w) = exec i s) ∧
    (owner i = some .polling → step (s.withFetchWord nbits w) = exec i { s with go := none }) ∧
    ((∃ code n, i = .send code n) → step (s.withFetchWord nbits w) = exec i { s with playing := [] })

/-- R60 (the polling path's own order): while a POLL is between its phases, an operation of the polling path waits for phase B. -/
def Obligations.PollInFlightPrecedesPollingOperations : Prop :=
  ∀ (s : State) (a : Agent) (w : CodeWord) (i : Instr) (rest : List Turn) (nowB : Nat),
    s.requests = .request a w :: rest → decode w = .ok i → s.go = some nowB → owner i = some .polling →
      StampNotEarlier s nowB →
        ∃ t, step s = .next t ∧
          exec (.decode s.block.buf nowB)
            { s with block.buf := [], block.ready := false, go := none } = .next t ∧
          t.requests = s.requests

/-- R231, R236: an instruction requested by an agent that does not own it is refused, but for the harness and for the dispatch
collaborator, which has a statement of its own. With a POLL in flight an operation of the polling path is not looked at yet: its
phase B comes first. That parts belong to the owner of the whole is the model's reading (log entry 12), that a row that is no
operation belongs to no agent its choice (log entry 4). -/
def Obligations.RequestByTheWrongAgentIsRefused : Prop :=
  ∀ (s : State) (a : Agent) (w : CodeWord) (i : Instr) (rest : List Turn),
    s.requests = .request a w :: rest → decode w = .ok i → (s.go = none ∨ owner i ≠ some .polling) →
      owner i ≠ some a → a ≠ .harness → a ≠ .dispatch → step s = .refused (.wrongAgent a)

/-- R203: the dispatch collaborator's request of POLL or SEND runs it, its request of anything else is refused, and the harness may
request everything. R203 names RECORD, TAKE_SNAPSHOT and DECODE: that the harness may request all else too, and that the dispatch
collaborator is refused FORMAT_HEX, PARSE_HEX and ENCODE, which R231 lists under the transmit path, is the model's reading (log
entry 12), and the rows that are no operation its choice (log entry 4). POLL and SEND meet the conditions of their own: no POLL in flight, nothing still being played (log entries 10
and 21). -/
def Obligations.DispatchHasExactlyTwoEntryPoints : Prop :=
  ∀ (s : State) (w : CodeWord) (i : Instr) (rest : List Turn), decode w = .ok i → s.go = none → s.playing = [] →
    (s.requests = .request .dispatch w :: rest →
      (((∃ nowA nowB, i = .poll nowA nowB) ∨ ∃ code n, i = .send code n) →
        step s = exec i { s with requests := rest }) ∧
      ((∀ nowA nowB, i ≠ .poll nowA nowB) → (∀ code n, i ≠ .send code n) →
        step s = .refused (.wrongAgent .dispatch))) ∧
    (s.requests = .request .harness w :: rest → step s = exec i { s with requests := rest })

/-- R205, R256 (P3): a SEND before the carrier driver has played the whole list of an earlier one is given no step, whoever of the
agents that may SEND requests it (what is still to play is the model's own field, log entry 21). -/
def Obligations.SecondSendWaitsForTheDriver : Prop :=
  ∀ (s : State) (a : Agent) (w : CodeWord) (code : SendCode) (n : Nat) (rest : List Turn),
    s.requests = .request a w :: rest → decode w = .ok (.send code n) →
      (a = .transmit ∨ a = .dispatch ∨ a = .harness) → s.playing ≠ [] → step s = .refused .driverBusy

/-- R206: the carrier driver plays the items in order; the block gets nothing back (the turn in which an item is played is the
model's own, log entry 21). -/
def Obligations.DriverPlaysItemsInOrder : Prop :=
  ∀ (s : State) (x : Item) (l : List Item) (rest : List Turn),
    s.requests = .itemPlayed :: rest → s.playing = x :: l →
      step s = .next { s with playing := l, requests := rest }
end

