-- ==== Sys2Proof/Laws/State.lean ====
section
/-! SUPPORT. One lemma per field per update of the state and of the block, and per constant, all true by rfl, so that no
later proof unfolds a record update. -/

namespace Sys2Proof

@[simp] theorem Config.nec_noiseMinUs : Config.nec.noiseMinUs = 100 := rfl
@[simp] theorem Config.nec_cap : Config.nec.cap = 100 := rfl
@[simp] theorem Config.nec_readyGapUs : Config.nec.readyGapUs = 30000 := rfl
@[simp] theorem Config.nec_readyGapMinLen : Config.nec.readyGapMinLen = 30 := rfl
@[simp] theorem Config.nec_readyFullLen : Config.nec.readyFullLen = 67 := rfl
@[simp] theorem Config.nec_timeoutUs : Config.nec.timeoutUs = 70000 := rfl
@[simp] theorem Config.nec_timeoutMinLen : Config.nec.timeoutMinLen = 10 := rfl
@[simp] theorem Config.nec_leadInUs : Config.nec.leadInUs = 20000 := rfl
@[simp] theorem Config.nec_rxHdrMark : Config.nec.rxHdrMark = 9000 := rfl
@[simp] theorem Config.nec_rxHdrSpace : Config.nec.rxHdrSpace = 4500 := rfl
@[simp] theorem Config.nec_rxRptSpace : Config.nec.rxRptSpace = 2250 := rfl
@[simp] theorem Config.nec_rxBitMark : Config.nec.rxBitMark = 562 := rfl
@[simp] theorem Config.nec_rxOneSpace : Config.nec.rxOneSpace = 1688 := rfl
@[simp] theorem Config.nec_rxZeroSpace : Config.nec.rxZeroSpace = 562 := rfl
@[simp] theorem Config.nec_tolUs : Config.nec.tolUs = 400 := rfl
@[simp] theorem Config.nec_nbits : Config.nec.nbits = 32 := rfl
@[simp] theorem Config.nec_repeatDelayUs : Config.nec.repeatDelayUs = 150000 := rfl
@[simp] theorem Config.nec_repeatFactor : Config.nec.repeatFactor = 3 := rfl
@[simp] theorem Config.nec_txHdrMark : Config.nec.txHdrMark = 9000 := rfl
@[simp] theorem Config.nec_txHdrSpace : Config.nec.txHdrSpace = 4500 := rfl
@[simp] theorem Config.nec_txBitMark : Config.nec.txBitMark = 560 := rfl
@[simp] theorem Config.nec_txOneSpace : Config.nec.txOneSpace = 1690 := rfl
@[simp] theorem Config.nec_txZeroSpace : Config.nec.txZeroSpace = 560 := rfl
@[simp] theorem Config.nec_txStopSpace : Config.nec.txStopSpace = 0 := rfl
@[simp] theorem Config.nec_txRptSpace : Config.nec.txRptSpace = 2250 := rfl
@[simp] theorem Config.nec_txGapUs : Config.nec.txGapUs = 40000 := rfl
@[simp] theorem Config.nec_repeatWindowUs : Config.nec.repeatWindowUs = 450000 := rfl

namespace Machine

/-! ### `State.withBlock` -/

@[simp] theorem State.withBlock_block (s : State) (b : Block) : (s.withBlock b).block = b := rfl
@[simp] theorem State.withBlock_go (s : State) (b : Block) : (s.withBlock b).go = s.go := rfl
@[simp] theorem State.withBlock_idleLevel (s : State) (b : Block) : (s.withBlock b).idleLevel = s.idleLevel := rfl
@[simp] theorem State.withBlock_clock (s : State) (b : Block) : (s.withBlock b).clock = s.clock := rfl
@[simp] theorem State.withBlock_playing (s : State) (b : Block) : (s.withBlock b).playing = s.playing := rfl
@[simp] theorem State.withBlock_requests (s : State) (b : Block) : (s.withBlock b).requests = s.requests := rfl
@[simp] theorem State.withBlock_outputs (s : State) (b : Block) : (s.withBlock b).outputs = s.outputs := rfl

/-! ### `State.emit` -/

@[simp] theorem State.emit_block (s : State) (l : List Event) : (s.emit l).block = s.block := rfl
@[simp] theorem State.emit_go (s : State) (l : List Event) : (s.emit l).go = s.go := rfl
@[simp] theorem State.emit_idleLevel (s : State) (l : List Event) : (s.emit l).idleLevel = s.idleLevel := rfl
@[simp] theorem State.emit_clock (s : State) (l : List Event) : (s.emit l).clock = s.clock := rfl
@[simp] theorem State.emit_playing (s : State) (l : List Event) : (s.emit l).playing = s.playing := rfl
@[simp] theorem State.emit_requests (s : State) (l : List Event) : (s.emit l).requests = s.requests := rfl
@[simp] theorem State.emit_outputs (s : State) (l : List Event) : (s.emit l).outputs = s.outputs ++ l := rfl

/-! ### `State.setClock` -/

@[simp] theorem State.setClock_block (s : State) (t : Nat) : (s.setClock t).block = s.block := rfl
@[simp] theorem State.setClock_go (s : State) (t : Nat) : (s.setClock t).go = s.go := rfl
@[simp] theorem State.setClock_idleLevel (s : State) (t : Nat) : (s.setClock t).idleLevel = s.idleLevel := rfl
@[simp] theorem State.setClock_clock (s : State) (t : Nat) : (s.setClock t).clock = t := rfl
@[simp] theorem State.setClock_playing (s : State) (t : Nat) : (s.setClock t).playing = s.playing := rfl
@[simp] theorem State.setClock_requests (s : State) (t : Nat) : (s.setClock t).requests = s.requests := rfl
@[simp] theorem State.setClock_outputs (s : State) (t : Nat) : (s.setClock t).outputs = s.outputs := rfl

/-! ### `State.setGo` -/

@[simp] theorem State.setGo_block (s : State) (g : Option Nat) : (s.setGo g).block = s.block := rfl
@[simp] theorem State.setGo_go (s : State) (g : Option Nat) : (s.setGo g).go = g := rfl
@[simp] theorem State.setGo_idleLevel (s : State) (g : Option Nat) : (s.setGo g).idleLevel = s.idleLevel := rfl
@[simp] theorem State.setGo_clock (s : State) (g : Option Nat) : (s.setGo g).clock = s.clock := rfl
@[simp] theorem State.setGo_playing (s : State) (g : Option Nat) : (s.setGo g).playing = s.playing := rfl
@[simp] theorem State.setGo_requests (s : State) (g : Option Nat) : (s.setGo g).requests = s.requests := rfl
@[simp] theorem State.setGo_outputs (s : State) (g : Option Nat) : (s.setGo g).outputs = s.outputs := rfl

/-! ### `State.setRequests` -/

@[simp] theorem State.setRequests_block (s : State) (r : List Turn) : (s.setRequests r).block = s.block := rfl
@[simp] theorem State.setRequests_go (s : State) (r : List Turn) : (s.setRequests r).go = s.go := rfl
@[simp] theorem State.setRequests_idleLevel (s : State) (r : List Turn) : (s.setRequests r).idleLevel = s.idleLevel := rfl
@[simp] theorem State.setRequests_clock (s : State) (r : List Turn) : (s.setRequests r).clock = s.clock := rfl
@[simp] theorem State.setRequests_playing (s : State) (r : List Turn) : (s.setRequests r).playing = s.playing := rfl
@[simp] theorem State.setRequests_requests (s : State) (r : List Turn) : (s.setRequests r).requests = r := rfl
@[simp] theorem State.setRequests_outputs (s : State) (r : List Turn) : (s.setRequests r).outputs = s.outputs := rfl

/-! ### `State.setPlaying` -/

@[simp] theorem State.setPlaying_block (s : State) (l : List Item) : (s.setPlaying l).block = s.block := rfl
@[simp] theorem State.setPlaying_go (s : State) (l : List Item) : (s.setPlaying l).go = s.go := rfl
@[simp] theorem State.setPlaying_idleLevel (s : State) (l : List Item) : (s.setPlaying l).idleLevel = s.idleLevel := rfl
@[simp] theorem State.setPlaying_clock (s : State) (l : List Item) : (s.setPlaying l).clock = s.clock := rfl
@[simp] theorem State.setPlaying_playing (s : State) (l : List Item) : (s.setPlaying l).playing = l := rfl
@[simp] theorem State.setPlaying_requests (s : State) (l : List Item) : (s.setPlaying l).requests = s.requests := rfl
@[simp] theorem State.setPlaying_outputs (s : State) (l : List Item) : (s.setPlaying l).outputs = s.outputs := rfl

/-! ### `Block.store` -/

@[simp] theorem Block.store_buf (b : Block) (d : Nat) (fires : Bool) : (b.store d fires).buf = b.buf ++ [d] := rfl
@[simp] theorem Block.store_ready (b : Block) (d : Nat) (fires : Bool) : (b.store d fires).ready = (b.ready || fires) := rfl
@[simp] theorem Block.store_lastEdgeTime (b : Block) (d : Nat) (fires : Bool) : (b.store d fires).lastEdgeTime = b.lastEdgeTime := rfl
@[simp] theorem Block.store_last (b : Block) (d : Nat) (fires : Bool) : (b.store d fires).last = b.last := rfl

/-! ### `Block.clearBuf` -/

@[simp] theorem Block.clearBuf_buf (b : Block) : (b.clearBuf).buf = [] := rfl
@[simp] theorem Block.clearBuf_ready (b : Block) : (b.clearBuf).ready = b.ready := rfl
@[simp] theorem Block.clearBuf_lastEdgeTime (b : Block) : (b.clearBuf).lastEdgeTime = b.lastEdgeTime := rfl
@[simp] theorem Block.clearBuf_last (b : Block) : (b.clearBuf).last = b.last := rfl

/-! ### `Block.raiseReady` -/

@[simp] theorem Block.raiseReady_buf (b : Block) (fires : Bool) : (b.raiseReady fires).buf = b.buf := rfl
@[simp] theorem Block.raiseReady_ready (b : Block) (fires : Bool) : (b.raiseReady fires).ready = (b.ready || fires) := rfl
@[simp] theorem Block.raiseReady_lastEdgeTime (b : Block) (fires : Bool) : (b.raiseReady fires).lastEdgeTime = b.lastEdgeTime := rfl
@[simp] theorem Block.raiseReady_last (b : Block) (fires : Bool) : (b.raiseReady fires).last = b.last := rfl

/-! ### `Block.drain` -/

@[simp] theorem Block.drain_buf (b : Block) : (b.drain).buf = [] := rfl
@[simp] theorem Block.drain_ready (b : Block) : (b.drain).ready = false := rfl
@[simp] theorem Block.drain_lastEdgeTime (b : Block) : (b.drain).lastEdgeTime = b.lastEdgeTime := rfl
@[simp] theorem Block.drain_last (b : Block) : (b.drain).last = b.last := rfl

/-! ### `Block.remember` -/

@[simp] theorem Block.remember_buf (b : Block) (f : Frame) (now : Nat) : (b.remember f now).buf = b.buf := rfl
@[simp] theorem Block.remember_ready (b : Block) (f : Frame) (now : Nat) : (b.remember f now).ready = b.ready := rfl
@[simp] theorem Block.remember_lastEdgeTime (b : Block) (f : Frame) (now : Nat) : (b.remember f now).lastEdgeTime = b.lastEdgeTime := rfl
@[simp] theorem Block.remember_last (b : Block) (f : Frame) (now : Nat) : (b.remember f now).last = some ⟨f, now⟩ := rfl

/-! ### `Block.stampEdge` -/

@[simp] theorem Block.stampEdge_buf (b : Block) (t : Nat) : (b.stampEdge t).buf = b.buf := rfl
@[simp] theorem Block.stampEdge_ready (b : Block) (t : Nat) : (b.stampEdge t).ready = b.ready := rfl
@[simp] theorem Block.stampEdge_lastEdgeTime (b : Block) (t : Nat) : (b.stampEdge t).lastEdgeTime = t := rfl
@[simp] theorem Block.stampEdge_last (b : Block) (t : Nat) : (b.stampEdge t).last = b.last := rfl

/-! ### `Block.reset` -/

@[simp] theorem Block.reset_buf (t : Nat) : (Block.reset t).buf = [] := rfl
@[simp] theorem Block.reset_ready (t : Nat) : (Block.reset t).ready = false := rfl
@[simp] theorem Block.reset_lastEdgeTime (t : Nat) : (Block.reset t).lastEdgeTime = t := rfl
@[simp] theorem Block.reset_last (t : Nat) : (Block.reset t).last = none := rfl

end Machine

end Sys2Proof
end

