-- ==== Sys2Proof/Laws/Flags.lean ====
section
/-! SUPPORT. What each condition of Machine/Flags.lean says, with the numbers of the rules. -/

namespace Sys2Proof.Machine

theorem readyOnStore_iff (idleLevel level : Bool) (d n : Nat) :
    readyOnStore idleLevel level d n = true ↔ (level = idleLevel ∧ 30000 < d ∧ 30 < n) ∨ 67 < n := by
  simp [readyOnStore, readyByGap, readyByLength, and_assoc]

theorem timeoutFires_iff (now lastEdgeTime len : Nat) :
    timeoutFires now lastEdgeTime len = true ↔ 10 < len ∧ 70000 < now - lastEdgeTime := by
  simp [timeoutFires]

theorem repeatAccepted_iff (last : Option LastCommand) (now : Nat) :
    repeatAccepted last now = true ↔ ∃ l, last = some l ∧ now - l.time < 450000 := by
  cases last <;> simp [repeatAccepted]

theorem addrOk_iff (f : Frame) : addrOk f = true ↔ f.extractLsb 31 24 ^^^ f.extractLsb 23 16 = 0xFF#8 := by
  simp [addrOk, frameAddr, frameNaddr, BitVec.extractLsb]

theorem cmdOk_iff (f : Frame) : cmdOk f = true ↔ f.extractLsb 15 8 ^^^ f.extractLsb 7 0 = 0xFF#8 := by
  simp [cmdOk, frameCmd, frameNcmd, BitVec.extractLsb]

theorem rxChecksumDiags_eq (f : Frame) : rxChecksumDiags f = checksumDiags .rxAddrChecksum .rxCmdChecksum f := by
  simp only [rxChecksumDiags, checksumDiags, addrOk_iff, cmdOk_iff]

theorem txChecksumWarnings_eq (f : Frame) :
    txChecksumWarnings f = checksumDiags .txAddrChecksum .txCmdChecksum f := by
  simp only [txChecksumWarnings, checksumDiags, addrOk_iff, cmdOk_iff]

/-- Bit `k` of a frame word written as its four fields (R71). -/
theorem getLsbD_fields (a n c m : Byte) (k : Nat) :
    BitVec.getLsbD (w := 32) (a ++ n ++ c ++ m) k =
      if k < 8 then m.getLsbD k else if k < 16 then c.getLsbD (k - 8)
      else if k < 24 then n.getLsbD (k - 16) else a.getLsbD (k - 24) := by
  have h : BitVec.getLsbD (w := 8 + 8 + 8 + 8) (a ++ n ++ c ++ m) k =
      if k < 8 then m.getLsbD k else if k < 16 then c.getLsbD (k - 8)
      else if k < 24 then n.getLsbD (k - 16) else a.getLsbD (k - 24) := by
    simp only [BitVec.getLsbD_append]
    by_cases h1 : k < 8
    · simp [h1]
    · by_cases h2 : k < 16
      · simp [h1, h2, show k - 8 < 8 by omega]
      · by_cases h3 : k < 24
        · simp [h1, h2, h3, show ¬ k - 8 < 8 by omega, show k - 16 < 8 by omega,
            show k - 8 - 8 = k - 16 by omega]
        · simp [h1, h2, h3, show ¬ k - 8 < 8 by omega, show ¬ k - 8 - 8 < 8 by omega,
            show k - 8 - 8 - 8 = k - 24 by omega]
  exact h

/-- A frame word written as its four fields has those fields (R71). -/
theorem frame_fields (a n c m : Byte) :
    frameAddr (a ++ n ++ c ++ m) = a ∧ frameNaddr (a ++ n ++ c ++ m) = n ∧
      frameCmd (a ++ n ++ c ++ m) = c ∧ frameNcmd (a ++ n ++ c ++ m) = m := by
  refine ⟨?_, ?_, ?_, ?_⟩ <;> apply BitVec.eq_of_getLsbD_eq <;> intro k hk
  · rw [frameAddr, BitVec.getLsbD_extractLsb', getLsbD_fields, if_neg (by omega), if_neg (by omega), if_neg (by omega)]
    simp [hk]
  · rw [frameNaddr, BitVec.getLsbD_extractLsb', getLsbD_fields, if_neg (by omega), if_neg (by omega), if_pos (by omega)]
    simp [hk]
  · rw [frameCmd, BitVec.getLsbD_extractLsb', getLsbD_fields, if_neg (by omega), if_pos (by omega)]
    simp [hk]
  · rw [frameNcmd, BitVec.getLsbD_extractLsb', getLsbD_fields, if_pos (by omega)]
    simp [hk]

end Sys2Proof.Machine
end

