-- ==== Sys2Proof/Laws/Ops.lean ====
section
/-! SUPPORT. One lemma per shared operation that says all it can do, for the proofs to cite instead of unfolding it, and the
proof that every operation on the pulse buffer keeps its canonical form. -/

namespace Sys2Proof.Machine

/-! ### The clock premise -/

theorem stampAdmitted_iff (s : State) (t : Nat) : stampAdmitted s t = true ↔ StampNotEarlier s t := by
  unfold stampAdmitted StampNotEarlier
  cases h : s.block.last <;> simp [and_assoc]

theorem atStamp_of_notEarlier {t : Nat} {s : State} (h : StampNotEarlier s t) (body : State → State) :
    atStamp t s body = .next (body (s.setClock t)) := by
  simp [atStamp, (stampAdmitted_iff s t).2 h]

theorem atStamp_of_earlier {t : Nat} {s : State} (h : ¬ StampNotEarlier s t) (body : State → State) :
    atStamp t s body = .refused .clockNotMonotone := by
  simp [atStamp, mt (stampAdmitted_iff s t).1 h]

theorem atStamp_eq_next {t : Nat} {s u : State} {body : State → State} :
    atStamp t s body = .next u ↔ StampNotEarlier s t ∧ body (s.setClock t) = u := by
  by_cases h : StampNotEarlier s t
  · simp [atStamp_of_notEarlier h, h]
  · simp [atStamp_of_earlier h, h]

theorem atStamp_eq_refused {t : Nat} {s : State} {body : State → State} {r : Refusal} :
    atStamp t s body = .refused r ↔ ¬ StampNotEarlier s t ∧ r = .clockNotMonotone := by
  by_cases h : StampNotEarlier s t
  · simp [atStamp_of_notEarlier h, h]
  · simp [atStamp_of_earlier h, h, eq_comm]

theorem atStamp_ne_fault {t : Nat} {s : State} {body : State → State} {r : Fault} :
    atStamp t s body ≠ .fault r := nomatch r

@[simp] theorem report_eq_next {evs : List Event} {s u : State} :
    report evs s = .next u ↔ s.emit evs = u := by simp [report]

/-! ### The pulse buffer keeps its canonical form -/

theorem Memory.wf_iff (buf : List Nat) :
    Memory.wf buf = true ↔ buf.length ≤ 100 ∧ ∀ d ∈ buf, 100 ≤ d := by
  simp [Memory.wf]

@[simp] theorem Memory.wf_nil : Memory.wf [] = true := by decide

theorem Memory.wf_append {buf : List Nat} {d : Nat} (h : Memory.wf buf = true)
    (hd : 100 ≤ d) (hl : buf.length ≠ 100) : Memory.wf (buf ++ [d]) = true := by
  rw [Memory.wf_iff] at h ⊢
  obtain ⟨h1, h2⟩ := h
  refine ⟨?_, fun x hx => ?_⟩
  · rw [List.length_append, List.length_singleton]
    omega
  · rcases List.mem_append.1 hx with hx | hx
    · exact h2 x hx
    · rw [List.mem_singleton.1 hx]
      exact hd

theorem Block.clearBuf_wf (b : Block) : Memory.wf b.clearBuf.buf = true := by simp

theorem Block.drain_wf (b : Block) : Memory.wf b.drain.buf = true := by simp

theorem Block.reset_wf (t : Nat) : Memory.wf (Block.reset t).buf = true := by simp

theorem State.reset_wf : Memory.wf State.reset.block.buf = true := by decide

/-! ### Failures and RECORD -/

@[simp] theorem takeFailure_overflow (s : State) :
    takeFailure .bufferOverflow s = (s.withBlock s.block.clearBuf).emit [.diag .overflow] := rfl

@[simp] theorem takeFailure_timing (s : State) :
    takeFailure .timingMismatch s = s.emit [.decodeResult .none] := rfl

@[simp] theorem takeFailure_malformed (s : State) :
    takeFailure .malformedInput s = s.emit [.sendReply false []] := rfl

@[simp] theorem takeFailure_checksum (s : State) : takeFailure .checksumMismatch s = s.emit [] := rfl

/-- All RECORD can do: ignore, drop with the overflow clear, or store (R102). -/
theorem recordPulse_cases (d : Nat) (level : Bool) (s : State) :
    (d < 100 ∧ recordPulse d level s = s.emit [.recordOutcome .ignored]) ∨
    (100 ≤ d ∧ s.block.buf.length = 100 ∧
      recordPulse d level s =
        ((s.withBlock s.block.clearBuf).emit [.diag .overflow]).emit [.recordOutcome .dropped]) ∨
    (100 ≤ d ∧ s.block.buf.length ≠ 100 ∧
      recordPulse d level s =
        (s.withBlock (s.block.store d
          (readyOnStore s.idleLevel level d (s.block.buf.length + 1)))).emit
          [.recordOutcome .stored]) := by
  by_cases h : d < 100
  · exact .inl ⟨h, by simp [recordPulse, h]⟩
  · by_cases hl : s.block.buf.length = 100
    · exact .inr (.inl ⟨by omega, hl, by simp [recordPulse, Block.len, h, hl]⟩)
    · exact .inr (.inr ⟨by omega, hl, by simp [recordPulse, Block.len, h, hl]⟩)

theorem recordPulse_wf {d : Nat} {level : Bool} {s : State} (h : Memory.wf s.block.buf = true) :
    Memory.wf (recordPulse d level s).block.buf = true := by
  rcases recordPulse_cases d level s with ⟨_, e⟩ | ⟨_, _, e⟩ | ⟨hd, hl, e⟩ <;> rw [e]
  · exact h
  · exact Memory.wf_nil
  · exact Memory.wf_append h hd hl

/-- What RECORD leaves alone outside `buf`, `ready` and the outputs. -/
theorem recordPulse_frame (d : Nat) (level : Bool) (s : State) :
    (recordPulse d level s).block.lastEdgeTime = s.block.lastEdgeTime ∧
    (recordPulse d level s).block.last = s.block.last ∧
    (recordPulse d level s).go = s.go ∧
    (recordPulse d level s).idleLevel = s.idleLevel ∧
    (recordPulse d level s).clock = s.clock ∧
    (recordPulse d level s).playing = s.playing ∧
    (recordPulse d level s).requests = s.requests := by
  rcases recordPulse_cases d level s with ⟨_, e⟩ | ⟨_, _, e⟩ | ⟨_, _, e⟩ <;> rw [e] <;> simp

/-! ### DECODE -/

/-- All a verdict can do to the state (R138 to R140). -/
theorem deliver_cases (v : Verdict) (now : Nat) (s : State) :
    (∃ f, v = .command f ∧ deliver v now s =
      (s.withBlock (s.block.remember f now)).emit (rxChecksumDiags f ++ [.decodeResult (.command f)])) ∨
    (v = .repeatFrame ∧ deliver v now s = s.emit [.decodeResult .repeatFrame]) ∨
    (∃ r, v = .none r ∧ deliver v now s = s.emit [.decodeResult .none]) := by
  cases v with
  | command f => exact .inl ⟨f, rfl, rfl⟩
  | repeatFrame => exact .inr (.inl ⟨rfl, rfl⟩)
  | none r => exact .inr (.inr ⟨r, rfl, rfl⟩)

/-- What DECODE leaves alone: everything but the repeat state and the outputs. -/
theorem decodeSequence_frame (p : List Nat) (now : Nat) (s : State) :
    (decodeSequence p now s).block.buf = s.block.buf ∧
    (decodeSequence p now s).block.ready = s.block.ready ∧
    (decodeSequence p now s).block.lastEdgeTime = s.block.lastEdgeTime ∧
    (decodeSequence p now s).go = s.go ∧
    (decodeSequence p now s).idleLevel = s.idleLevel ∧
    (decodeSequence p now s).clock = s.clock ∧
    (decodeSequence p now s).playing = s.playing ∧
    (decodeSequence p now s).requests = s.requests := by
  unfold decodeSequence
  rcases deliver_cases (verdict p s.block.last now) now s with ⟨_, _, e⟩ | ⟨_, e⟩ | ⟨_, _, e⟩ <;>
    rw [e] <;> simp

/-- The last output of DECODE is its result. -/
theorem decodeSequence_result (p : List Nat) (now : Nat) (s : State) :
    (decodeSequence p now s).outputs.getLast? =
      some (.decodeResult (verdict p s.block.last now).result) := by
  unfold decodeSequence
  rcases deliver_cases (verdict p s.block.last now) now s with ⟨_, v, e⟩ | ⟨v, e⟩ | ⟨_, v, e⟩ <;>
    rw [e, v] <;> simp [Verdict.result]

/-- The repeat state after DECODE is the old one, or the new frame with the stamp. -/
theorem decodeSequence_last (p : List Nat) (now : Nat) (s : State) :
    (decodeSequence p now s).block.last = s.block.last ∨
      ∃ f, (decodeSequence p now s).block.last = some ⟨f, now⟩ := by
  unfold decodeSequence
  rcases deliver_cases (verdict p s.block.last now) now s with ⟨f, _, e⟩ | ⟨_, e⟩ | ⟨_, _, e⟩ <;> rw [e]
  · exact .inr ⟨f, rfl⟩
  · exact .inl rfl
  · exact .inl rfl

/-! ### POLL -/

/-- All phase A can do: go on to phase B with `ready` set, or answer `None` (R200). -/
theorem pollPhaseA_cases (nowA nowB : Nat) (s : State) :
    ((s.block.ready = true ∨ timeoutFires nowA s.block.lastEdgeTime s.block.len = true) ∧
      pollPhaseA nowA nowB s =
        (s.withBlock (s.block.raiseReady (timeoutFires nowA s.block.lastEdgeTime s.block.len))).setGo
          (some nowB)) ∨
    (s.block.ready = false ∧ timeoutFires nowA s.block.lastEdgeTime s.block.len = false ∧
      pollPhaseA nowA nowB s =
        ((s.withBlock (s.block.raiseReady (timeoutFires nowA s.block.lastEdgeTime s.block.len))).setGo
          none).emit [.decodeResult .none]) := by
  cases hr : s.block.ready <;> cases ht : timeoutFires nowA s.block.lastEdgeTime s.block.len <;>
    simp [pollPhaseA, checkTimeout, hr, ht]

theorem pollPhaseB_of_go {s : State} {nowB : Nat} (h : s.go = some nowB) :
    pollPhaseB s = atStamp nowB s (pollDecode nowB) := by
  simp [pollPhaseB, h]

theorem pollPhaseB_of_none {s : State} (h : s.go = none) : pollPhaseB s = .next s := by
  simp [pollPhaseB, h]

/-! ### SEND -/

/-- SEND of a frame, or of a text that parses: warnings, reply, and the items to the driver (R178, R204). -/
theorem execSend_of_ok {code : SendCode} {f : Frame} (h : sendFrame code = .ok f) (n : Nat) (s : State) :
    execSend code n s =
      .next { s with
        playing := s.playing ++ encodeItems f n
        outputs := s.outputs ++ txChecksumWarnings f ++ [.sendReply true (encodeItems f n)] } := by
  simp [execSend, sendEvents, sendItems, h, State.emit, State.setPlaying]

/-- SEND of a text that does not: the failing reply, and nothing to the driver (R178). -/
theorem execSend_of_error {code : SendCode} {r : EncodeReason} (h : sendFrame code = .error r) (n : Nat) (s : State) :
    execSend code n s = .next { s with outputs := s.outputs ++ [.sendReply false []] } := by
  simp [execSend, sendEvents, sendItems, h, failureSeen, State.emit, State.setPlaying]

/-! ### Turns -/

/-- When a request runs, as the instruction its word decodes to. -/
theorem requestTurn_run {a : Agent} {i : Instr} {rest : List Turn} {s : State} (hp : pollComesFirst s i = false)
    (hm : mayRequest a i = true) (ho : sendOverlaps s i = false) :
    requestTurn a i rest s = .run i (s.setRequests rest) := by
  simp [requestTurn, hp, hm, ho]

/-- A SEND overlaps exactly while the driver has items to play; nothing else does (R205). -/
theorem sendOverlaps_iff (s : State) (i : Instr) :
    sendOverlaps s i = true ↔ (∃ code n, i = .send code n) ∧ s.playing ≠ [] := by
  cases i <;> simp [sendOverlaps, entryPoint]

/-- The entry points are POLL and SEND (R203). -/
theorem entryPoint_isSome_iff (i : Instr) :
    (entryPoint i).isSome = true ↔ (∃ nowA nowB, i = .poll nowA nowB) ∨ ∃ code n, i = .send code n := by
  cases i <;> simp [entryPoint]

/-- After `clearWay` nothing keeps the instruction from being the next to run. -/
theorem clearWay_clears (s : State) (i : Instr) :
    pollComesFirst (clearWay s i) i = false ∧ sendOverlaps (clearWay s i) i = false := by
  cases i <;> cases hg : s.go <;> cases hp : s.playing <;>
    simp [clearWay, pollComesFirst, sendOverlaps, owner, entryPoint, hg, hp]

theorem clearWay_setRequests (s : State) (i : Instr) (r : List Turn) :
    ((clearWay s i).setRequests r).setRequests s.requests = clearWay s i := by
  unfold clearWay
  split
  · rfl
  · split <;> rfl

/-- All a step can do: idle, pass a turn, play an item, the second phase of a POLL, an instruction, or a refusal. -/
theorem step_cases (s : State) :
    (step s = .next s ∧ s.requests = [] ∧ s.go = none) ∨
    (∃ rest, s.requests = .resume :: rest ∧ s.go = none ∧ step s = .next (s.setRequests rest)) ∨
    (∃ rest, s.requests = .itemPlayed :: rest ∧
      step s = .next ((s.setPlaying s.playing.tail).setRequests rest)) ∨
    (s.go.isSome = true ∧ (step s = pollPhaseB s ∨
      ∃ rest, s.requests = .resume :: rest ∧ step s = pollPhaseB (s.setRequests rest))) ∨
    (∃ a w i rest, s.requests = .request a w :: rest ∧ decode w = .ok i ∧ mayRequest a i = true ∧
      sendOverlaps s i = false ∧ step s = exec i (s.setRequests rest)) ∨
    ∃ r, step s = .refused r := by
  unfold step nextTurn
  cases hr : s.requests with
  | nil => cases hg : s.go <;> simp
  | cons x rest =>
    cases x with
    | resume => cases hg : s.go <;> simp
    | itemPlayed => simp
    | request a w =>
      cases hd : decode w with
      | error e => simp [hd]
      | ok i =>
        cases hp : pollComesFirst s i with
        | true =>
          have : s.go.isSome = true := by
            simp [pollComesFirst] at hp
            exact hp.1
          simp [hd, requestTurn, hp, this]
        | false =>
          cases hm : mayRequest a i with
          | false => simp [hd, requestTurn, hp, hm]
          | true =>
            cases ho : sendOverlaps s i with
            | true => simp [hd, requestTurn, hp, hm, ho]
            | false =>
              exact .inr (.inr (.inr (.inr (.inl
                ⟨a, w, i, rest, rfl, hd, hm, ho, by simp [hd, requestTurn_run hp hm ho]⟩))))

end Sys2Proof.Machine
end

