-- ==== Sys2Proof/Laws/Receive.lean ====
section
/-! SUPPORT. One lemma per function of the receive line code, in the spec's own terms: ranges, layouts, the lead-in and the
assembly of the frame. -/

namespace Sys2Proof.Machine

theorem matchUs_iff (d e : Nat) : matchUs d e = true ↔ e ≤ d + 400 ∧ d ≤ e + 400 := by
  simp [matchUs]

theorem readsAs_iff (p : List Nat) (k e : Nat) :
    readsAs p k e = true ↔ PulseIn p k (e - 400) (e + 400) := by
  unfold readsAs PulseIn memRead
  cases p[k]? with
  | none => simp
  | some d =>
    simp only [matchUs_iff, Option.some.injEq, exists_eq_left']
    omega

theorem isLeadIn_iff (d : Nat) : isLeadIn d = true ↔ 20000 < d := by simp [isLeadIn]

/-- `WithoutLeadIn` says what `dropLeadIn` computes. -/
theorem withoutLeadIn_iff (s p : List Nat) : WithoutLeadIn s p ↔ dropLeadIn s = p := by
  unfold WithoutLeadIn
  cases s with
  | nil => simp [dropLeadIn]
  | cons d rest =>
    by_cases h : 20000 < d
    · have hd : dropLeadIn (d :: rest) = rest := by simp [dropLeadIn, isLeadIn, h]
      rw [hd]
      constructor
      · rintro (⟨e, _, he⟩ | ⟨_, he⟩)
        · exact (List.cons.inj he).2
        · exact absurd (he d rfl) (by omega)
      · rintro rfl
        exact .inl ⟨d, h, rfl⟩
    · have hd : dropLeadIn (d :: rest) = d :: rest := by simp [dropLeadIn, isLeadIn, h]
      rw [hd]
      constructor
      · rintro (⟨e, he, hs⟩ | ⟨he, _⟩)
        · rw [(List.cons.inj hs).1] at h
          exact absurd he h
        · exact he
      · rintro rfl
        exact .inr ⟨rfl, fun e he => by
          obtain rfl : d = e := by simpa using he
          omega⟩

theorem isRepeatShaped_iff (p : List Nat) : isRepeatShaped p = true ↔ RepeatLayout p := by
  simp only [isRepeatShaped, Bool.and_eq_true, readsAs_iff, decide_eq_true_eq, RepeatLayout]
  constructor
  · rintro ⟨⟨⟨h0, _⟩, h1⟩, h2⟩
    exact ⟨h0, h1, h2⟩
  · rintro ⟨h0, h1, h2⟩
    obtain ⟨d, hd, _⟩ := id h2
    have : 2 < p.length := (List.getElem?_eq_some_iff.1 hd).1
    exact ⟨⟨⟨h0, by omega⟩, h1⟩, h2⟩

theorem bitOfSpace_eq_true (d : Nat) : bitOfSpace d = some true ↔ 1288 ≤ d ∧ d ≤ 2088 := by
  by_cases h1 : matchUs d 1688 = true
  · rw [matchUs_iff] at h1
    simp [bitOfSpace, matchUs_iff, h1]
    omega
  · have h1' := mt (matchUs_iff d 1688).2 h1
    by_cases h0 : matchUs d 562 = true <;> simp [bitOfSpace, h1, h0] <;> omega

theorem bitOfSpace_eq_false (d : Nat) : bitOfSpace d = some false ↔ 162 ≤ d ∧ d ≤ 962 := by
  by_cases h1 : matchUs d 1688 = true
  · have h1' := (matchUs_iff d 1688).1 h1
    simp [bitOfSpace, h1]
    omega
  · by_cases h0 : matchUs d 562 = true
    · have h0' := (matchUs_iff d 562).1 h0
      simp [bitOfSpace, h1, h0]
      omega
    · have h0' := mt (matchUs_iff d 562).2 h0
      simp [bitOfSpace, h1, h0]
      omega

/-- Bit `i` is read exactly when its mark and its space are in range (R137). -/
theorem readBit_eq_ok (p : List Nat) (i : Nat) (b : Bool) :
    readBit p i = .ok b ↔ PulseIn p (2 + 2 * i) 162 962 ∧
      (b = true → PulseIn p (3 + 2 * i) 1288 2088) ∧ (b = false → PulseIn p (3 + 2 * i) 162 962) := by
  have key : ∀ b', (memRead p (spacePos i)).bind bitOfSpace = some b' ↔
      (b' = true → PulseIn p (3 + 2 * i) 1288 2088) ∧ (b' = false → PulseIn p (3 + 2 * i) 162 962) := by
    intro b'
    unfold memRead spacePos PulseIn
    cases p[3 + 2 * i]? with
    | none => cases b' <;> simp
    | some d => cases b' <;> simp [bitOfSpace_eq_true, bitOfSpace_eq_false]
  by_cases hm : readsAs p (markPos i) Config.nec.rxBitMark = true
  · have hm' : PulseIn p (2 + 2 * i) 162 962 := (readsAs_iff p (markPos i) 562).1 hm
    simp only [readBit, hm, if_true, ← key b, hm', true_and]
    cases (memRead p (spacePos i)).bind bitOfSpace <;> simp
  · have hm' : ¬ PulseIn p (2 + 2 * i) 162 962 := mt (readsAs_iff p (markPos i) 562).2 hm
    simp [readBit, hm, hm']

/-- The bits of `(v << 1) | b` (R76). -/
theorem getLsbD_shiftIn (v : Frame) (b : Bool) (j : Nat) :
    (shiftIn v b).getLsbD j = if j = 0 then b else (decide (j < 32) && v.getLsbD (j - 1)) := by
  unfold shiftIn
  rw [BitVec.getLsbD_or, BitVec.getLsbD_shiftLeft, BitVec.getLsbD_setWidth, BitVec.getLsbD_ofBool]
  by_cases hj : j = 0
  · subst hj; simp
  · have : ¬ j < 1 := by omega
    simp [hj, this]

/-- The loop of step 6: the frame holds the bits read, after what was there before (R76, R137). -/
theorem readBits_eq_ok (p : List Nat) (f : Frame) :
    ∀ (left i : Nat) (v : Frame), left ≤ 32 →
      (readBits p left i v = .ok f ↔
        (∀ k, k < left → readBit p (i + k) = .ok (f.getLsbD (left - 1 - k))) ∧
          ∀ j, j < 32 → left ≤ j → f.getLsbD j = v.getLsbD (j - left)) := by
  intro left
  induction left with
  | zero =>
    intro i v _
    simp only [readBits, Except.ok.injEq, Nat.not_lt_zero, false_implies, implies_true, true_and]
    constructor
    · rintro rfl j _ _; rfl
    · intro h
      exact (BitVec.eq_of_getLsbD_eq fun j hj => h j hj (Nat.zero_le j)).symm
  | succ n ih =>
    intro i v hn
    unfold readBits
    cases hb : readBit p i with
    | error r =>
      constructor
      · intro h; cases h
      · rintro ⟨h, _⟩
        have := h 0 (by omega)
        rw [Nat.add_zero, hb] at this
        cases this
    | ok b =>
      simp only
      rw [ih (i + 1) (shiftIn v b) (by omega)]
      constructor
      · rintro ⟨h1, h2⟩
        refine ⟨fun k hk => ?_, fun j hj hnj => ?_⟩
        · cases k with
          | zero =>
            have e := h2 n (by omega) (le_refl n)
            rw [getLsbD_shiftIn] at e
            simp at e
            rw [Nat.add_zero, hb]
            simp [e]
          | succ k =>
            have e := h1 k (by omega)
            rw [show i + (k + 1) = i + 1 + k by omega, e,
              show n + 1 - 1 - (k + 1) = n - 1 - k by omega]
        · have e := h2 j hj (by omega)
          rw [getLsbD_shiftIn, if_neg (by omega)] at e
          rw [e, show j - n - 1 = j - (n + 1) by omega]
          have : j - n < 32 := by omega
          simp [this]
      · rintro ⟨h1, h2⟩
        refine ⟨fun k hk => ?_, fun j hj hnj => ?_⟩
        · have e := h1 (k + 1) (by omega)
          rw [show i + 1 + k = i + (k + 1) by omega, e,
            show n + 1 - 1 - (k + 1) = n - 1 - k by omega]
        · rw [getLsbD_shiftIn]
          by_cases hjn : j = n
          · subst hjn
            have e := h1 0 (by omega)
            rw [Nat.add_zero, hb] at e
            simpa using (Except.ok.inj e).symm
          · rw [if_neg (by omega), h2 j hj (by omega), show j - n - 1 = j - (n + 1) by omega]
            have : j - n < 32 := by omega
            simp [this]

theorem PulseIn.lt_length {p : List Nat} {k lo hi : Nat} (h : PulseIn p k lo hi) : k < p.length := by
  obtain ⟨d, hd, _⟩ := h
  exact (List.getElem?_eq_some_iff.1 hd).1

/-- A standard frame has at least 66 pulses (R136). -/
theorem StandardLayout.length {p : List Nat} {f : Frame} (h : StandardLayout p f) : 66 ≤ p.length := by
  obtain ⟨_, h1, h0⟩ := h.2.2 31 (by omega)
  cases hb : f.getLsbD (31 - 31) with
  | true => exact (h1 hb).lt_length
  | false => exact (h0 hb).lt_length

/-- Steps 4 to 6 of DECODE answer a frame exactly on its standard layout (R135 to R137). -/
theorem standardFrame_eq_ok (p : List Nat) (f : Frame) :
    standardFrame p = .ok f ↔ StandardLayout p f := by
  have hbits : readBits p 32 0 0 = .ok f ↔
      ∀ i, i < 32 → PulseIn p (2 + 2 * i) 162 962 ∧
        (f.getLsbD (31 - i) = true → PulseIn p (3 + 2 * i) 1288 2088) ∧
        (f.getLsbD (31 - i) = false → PulseIn p (3 + 2 * i) 162 962) := by
    rw [readBits_eq_ok p f 32 0 0 (le_refl 32)]
    constructor
    · rintro ⟨h, _⟩ i hi
      have := h i hi
      rwa [Nat.zero_add, readBit_eq_ok] at this
    · intro h
      refine ⟨fun k hk => ?_, fun j h1 h2 => absurd h1 (by omega)⟩
      rw [Nat.zero_add, readBit_eq_ok]
      exact h k hk
  unfold StandardLayout
  rw [← hbits]
  unfold standardFrame
  cases h0 : readsAs p 0 Config.nec.rxHdrMark with
  | false =>
    have h0' : ¬ PulseIn p 0 8600 9400 := fun h => by simp [(readsAs_iff p 0 9000).2 h] at h0
    exact ⟨fun h => by simp at h, fun h => absurd h.1 h0'⟩
  | true =>
    have h0' : PulseIn p 0 8600 9400 := (readsAs_iff p 0 9000).1 h0
    cases h1 : readsAs p 1 Config.nec.rxHdrSpace with
    | false =>
      have h1' : ¬ PulseIn p 1 4100 4900 := fun h => by simp [(readsAs_iff p 1 4500).2 h] at h1
      exact ⟨fun h => by simp at h, fun h => absurd h.2.1 h1'⟩
    | true =>
      have h1' : PulseIn p 1 4100 4900 := (readsAs_iff p 1 4500).1 h1
      by_cases hl : p.length < standardLength
      · have hno : ¬ readBits p 32 0 0 = .ok f := fun h => by
          have := StandardLayout.length ⟨h0', h1', hbits.1 h⟩
          have e : standardLength = 66 := rfl
          omega
        have hno' : ¬ readBits p 32 0 0#32 = .ok f := hno
        simp [hl, hno']
      · simp [hl, h0', h1']

end Sys2Proof.Machine
end

