-- ==== Sys2Proof/Laws/Decoder.lean ====
section
/-! SUPPORT. The three answers of the decoder, each with the layout of the sequence that gives it (spec/41_decoder.md R131 to
R137). -/

namespace Sys2Proof.Machine

theorem RepeatLayout.length {p : List Nat} (h : RepeatLayout p) : 3 ≤ p.length := h.2.2.lt_length

/-- A sequence has at most one of the two layouts: their second pulses lie in disjoint ranges (R77, R144). -/
theorem StandardLayout.not_repeat {p : List Nat} {f : Frame} (h : StandardLayout p f) : ¬ RepeatLayout p := by
  rintro ⟨_, ⟨e, he, _, he2⟩, _⟩
  obtain ⟨_, ⟨d, hd, hd1, _⟩, _⟩ := h
  rw [he] at hd
  cases hd
  omega

theorem verdict_of_standard {raw p : List Nat} {f : Frame} (hp : WithoutLeadIn raw p) (h : StandardLayout p f)
    (last : Option LastCommand) (now : Nat) : verdict raw last now = .command f := by
  have hr : ¬ isRepeatShaped p = true := mt (isRepeatShaped_iff p).1 h.not_repeat
  have hl := h.length
  simp [verdict, (withoutLeadIn_iff raw p).1 hp, hr, show ¬ p.length < 2 by omega, (standardFrame_eq_ok p f).2 h]

theorem verdict_of_repeat {raw p : List Nat} (hp : WithoutLeadIn raw p) (h : RepeatLayout p)
    (last : Option LastCommand) (now : Nat) :
    verdict raw last now = if repeatAccepted last now then .repeatFrame else .none .repeatRejected := by
  have hl := h.length
  simp [verdict, (withoutLeadIn_iff raw p).1 hp, (isRepeatShaped_iff p).2 h, show ¬ p.length < 2 by omega]

theorem verdict_of_neither {raw p : List Nat} (hp : WithoutLeadIn raw p) (hr : ¬ RepeatLayout p)
    (hs : ∀ f, ¬ StandardLayout p f) (last : Option LastCommand) (now : Nat) :
    ∃ r, verdict raw last now = .none r := by
  have hr' : ¬ isRepeatShaped p = true := mt (isRepeatShaped_iff p).1 hr
  by_cases hl : p.length < 2
  · exact ⟨_, by simp [verdict, (withoutLeadIn_iff raw p).1 hp, hl]; rfl⟩
  · cases hf : standardFrame p with
    | ok f => exact absurd ((standardFrame_eq_ok p f).1 hf) (hs f)
    | error r => exact ⟨r, by simp [verdict, (withoutLeadIn_iff raw p).1 hp, hl, hr', hf]⟩

end Sys2Proof.Machine
end

