-- ==== Sys2Proof/Laws/PerInstr.lean ====
section
/-! SUPPORT. The opcode table transcribed once more, row by row, and for every instruction that its encoded word has the
format and the fixed bits of its row (spec/opcode_table.json columns "format" and "match"; log entry 2). -/

namespace Sys2Proof.Laws.TableFormat

open Sys2Proof

/-- The formats of the opcode table. -/
inductive Format where
  | op | nec32 | hex8 | rxSym | rxFrame | txSym | txFrame | result | cause
deriving DecidableEq, Repr

/-- The format of a word. -/
def formatOf (w : CodeWord) : Format :=
  match w with
  | .op _ _ => .op
  | .nec32 _ => .nec32
  | .hex8 _ => .hex8
  | .rxSym _ _ => .rxSym
  | .rxFrame _ => .rxFrame
  | .txSym _ => .txSym
  | .txFrame _ => .txFrame
  | .result _ _ => .result
  | .cause _ => .cause

/-- The bits a word fixes, where its format has any. -/
def fixedBits (w : CodeWord) : Option Nat :=
  match w with
  | .op number _ => some number.toNat
  | .nec32 _ => none
  | .hex8 _ => none
  | .rxSym _ _ => none
  | .rxFrame _ => none
  | .txSym _ => none
  | .txFrame _ => none
  | .result tag _ => some tag.toNat
  | .cause code => some code.toNat

/-- Format and fixed bits of each row. -/
def row (i : Instr) : Format × Option Nat :=
  match i with
  | .reset _ => (.op, some 0x0)
  | .edge _ _ => (.op, some 0x1)
  | .record _ _ => (.op, some 0x2)
  | .timeoutCheck _ => (.op, some 0x3)
  | .takeSnapshot => (.op, some 0x4)
  | .matchPulse _ _ => (.op, some 0x5)
  | .decode _ _ => (.op, some 0x6)
  | .poll _ _ => (.op, some 0x7)
  | .parseHex _ => (.op, some 0x8)
  | .formatHex _ => (.op, some 0x9)
  | .encode _ _ => (.op, some 0xA)
  | .send _ _ => (.op, some 0xB)
  | .necFrame _ => (.nec32, none)
  | .hexText _ => (.hex8, none)
  | .rxLeadIn _ => (.rxSym, none)
  | .rxHdrMark _ => (.rxSym, none)
  | .rxHdrSpace _ => (.rxSym, none)
  | .rxRptSpace _ => (.rxSym, none)
  | .rxBitMark _ _ => (.rxSym, none)
  | .rxOneSpace _ _ => (.rxSym, none)
  | .rxZeroSpace _ _ => (.rxSym, none)
  | .rxStandardFrame _ => (.rxFrame, none)
  | .rxRepeatFrame _ => (.rxFrame, none)
  | .txHeader => (.txSym, none)
  | .txBit1 => (.txSym, none)
  | .txBit0 => (.txSym, none)
  | .txStop => (.txSym, none)
  | .txRepeatFrame => (.txSym, none)
  | .txWait => (.txSym, none)
  | .txOutput _ _ => (.txFrame, none)
  | .resultNone => (.result, some 0x0)
  | .resultCommand _ => (.result, some 0x1)
  | .resultRepeat => (.result, some 0x2)
  | .causeMalformedInput => (.cause, some 0x1)
  | .causeTimingMismatch => (.cause, some 0x2)
  | .causeBufferOverflow => (.cause, some 0x3)
  | .causeChecksumMismatch => (.cause, some 0x4)

/-- The encoded word has its row's format and fixed bits. -/
def Statement (i : Instr) : Prop := (formatOf (encode i), fixedBits (encode i)) = row i

theorem reset (t0 : Nat) : Statement (.reset t0) := rfl
theorem edge (t : Nat) (level : Bool) : Statement (.edge t level) := rfl
theorem record (d : Nat) (level : Bool) : Statement (.record d level) := rfl
theorem timeoutCheck (now : Nat) : Statement (.timeoutCheck now) := rfl
theorem takeSnapshot : Statement .takeSnapshot := rfl
theorem matchPulse (d e : Nat) : Statement (.matchPulse d e) := rfl
theorem decode (s : List Nat) (now : Nat) : Statement (.decode s now) := rfl
theorem poll (nowA nowB : Nat) : Statement (.poll nowA nowB) := rfl
theorem parseHex (text : List Char) : Statement (.parseHex text) := rfl
theorem formatHex (frame : Frame) : Statement (.formatHex frame) := rfl
theorem encode (frame : Frame) (n : Nat) : Statement (.encode frame n) := rfl
theorem send (code : SendCode) (n : Nat) : Statement (.send code n) := rfl
theorem necFrame (frame : Frame) : Statement (.necFrame frame) := rfl
theorem hexText (text : List Char) : Statement (.hexText text) := rfl
theorem rxLeadIn (d : Nat) : Statement (.rxLeadIn d) := rfl
theorem rxHdrMark (d : Nat) : Statement (.rxHdrMark d) := rfl
theorem rxHdrSpace (d : Nat) : Statement (.rxHdrSpace d) := rfl
theorem rxRptSpace (d : Nat) : Statement (.rxRptSpace d) := rfl
theorem rxBitMark (i : Fin 32) (d : Nat) : Statement (.rxBitMark i d) := rfl
theorem rxOneSpace (i : Fin 32) (d : Nat) : Statement (.rxOneSpace i d) := rfl
theorem rxZeroSpace (i : Fin 32) (d : Nat) : Statement (.rxZeroSpace i d) := rfl
theorem rxStandardFrame (s : List Nat) : Statement (.rxStandardFrame s) := rfl
theorem rxRepeatFrame (s : List Nat) : Statement (.rxRepeatFrame s) := rfl
theorem txHeader : Statement .txHeader := rfl
theorem txBit1 : Statement .txBit1 := rfl
theorem txBit0 : Statement .txBit0 := rfl
theorem txStop : Statement .txStop := rfl
theorem txRepeatFrame : Statement .txRepeatFrame := rfl
theorem txWait : Statement .txWait := rfl
theorem txOutput (frame : Frame) (n : Nat) : Statement (.txOutput frame n) := rfl
theorem resultNone : Statement .resultNone := rfl
theorem resultCommand (frame : Frame) : Statement (.resultCommand frame) := rfl
theorem resultRepeat : Statement .resultRepeat := rfl
theorem causeMalformedInput : Statement .causeMalformedInput := rfl
theorem causeTimingMismatch : Statement .causeTimingMismatch := rfl
theorem causeBufferOverflow : Statement .causeBufferOverflow := rfl
theorem causeChecksumMismatch : Statement .causeChecksumMismatch := rfl

end Sys2Proof.Laws.TableFormat
end

