-- ==== Sys2Proof/Laws/Text.lean ====
section
/-! SUPPORT. Hex text, in the spec's own terms: the value of a digit, the digits of a frame (spec/30_encoding.md R72,
spec/42_encoder.md R170, R171). -/

namespace Sys2Proof.Machine

theorem char_eq_ofNat_iff (c : Char) {m : Nat} (hm : m < 128) : c = Char.ofNat m ↔ c.toNat = m := by
  have hv : m.isValidChar := Or.inl (by omega)
  constructor
  · rintro rfl
    simp [Char.toNat_ofNat, hv]
  · rintro rfl
    exact (Char.ofNat_toNat c).symm

theorem digitValue_iff (c : Char) (v : Nat) : digitValue c = some v ↔ HexDigitValue c v := by
  unfold HexDigitValue digitValue
  have h0 : '0'.toNat = 48 := rfl
  have hA : 'A'.toNat = 65 := rfl
  have ha : 'a'.toNat = 97 := rfl
  rw [h0, hA, ha]
  by_cases hv : v < 16
  · rw [char_eq_ofNat_iff c (by omega : 48 + v < 128), char_eq_ofNat_iff c (by omega : 65 + (v - 10) < 128),
      char_eq_ofNat_iff c (by omega : 97 + (v - 10) < 128)]
    simp only
    split
    · rw [Option.some.injEq]; omega
    · split
      · rw [Option.some.injEq]; omega
      · split
        · rw [Option.some.injEq]; omega
        · constructor
          · intro h; cases h
          · intro h; omega
  · simp only
    constructor
    · intro h
      split at h
      · rw [Option.some.injEq] at h; omega
      · split at h
        · rw [Option.some.injEq] at h; omega
        · split at h
          · rw [Option.some.injEq] at h; omega
          · cases h
    · rintro (h | h) <;> omega

theorem digitValue_lt {c : Char} {v : Nat} (h : digitValue c = some v) : v < 16 := by
  rcases (digitValue_iff c v).1 h with h | h <;> omega

theorem digitValue_hexDigit (v : BitVec 4) : digitValue (hexDigit v) = some v.toNat := by
  revert v
  decide

theorem testBit_digit {n j : Nat} (hn : n < 16) (hj : 4 ≤ j) : n.testBit j = false :=
  Nat.testBit_lt_two_pow (lt_of_lt_of_le (show n < 2 ^ 4 from hn) (Nat.pow_le_pow_right (by decide) hj))

/-- The bits of `(F << 4) | n` for a digit (R170). -/
theorem getLsbD_shiftDigit (f : Frame) (n : Nat) (hn : n < 16) (j : Nat) (hj : j < 32) :
    ((f <<< 4) ||| BitVec.ofNat 32 n).getLsbD j = if j < 4 then n.testBit j else f.getLsbD (j - 4) := by
  rw [BitVec.getLsbD_or, BitVec.getLsbD_shiftLeft, BitVec.getLsbD_ofNat]
  by_cases h : j < 4
  · simp [h, hj]
  · have : n.testBit j = false := testBit_digit hn (by omega)
    simp [h, hj, this]

theorem foldDigits_isOk (text : List Char) (f : Frame) (h : ∀ c, c ∈ text → ∃ v, digitValue c = some v) :
    ∃ g, foldDigits text f = .ok g := by
  induction text generalizing f with
  | nil => exact ⟨f, rfl⟩
  | cons c rest ih =>
    obtain ⟨v, hv⟩ := h c (List.mem_cons_self ..)
    rw [foldDigits, hv]
    exact ih _ fun c hc => h c (List.mem_cons_of_mem _ hc)

theorem foldDigits_badDigit (text : List Char) (f : Frame) (h : ∃ c, c ∈ text ∧ digitValue c = none) :
    foldDigits text f = .error .badDigit := by
  induction text generalizing f with
  | nil =>
    obtain ⟨c, hc, _⟩ := h
    cases hc
  | cons c rest ih =>
    rw [foldDigits]
    cases hv : digitValue c with
    | none => rfl
    | some v =>
      obtain ⟨d, hd, hn⟩ := h
      rcases List.mem_cons.1 hd with rfl | hd
      · rw [hv] at hn; cases hn
      · exact ih _ ⟨d, hd, hn⟩

/-- The frame the digits spell: digit `k` from the right end of the text gives its 4 bits, above them stands what was there
before (R170). -/
theorem foldDigits_eq_ok (text : List Char) (f g : Frame) (hl : text.length ≤ 8) (h : foldDigits text f = .ok g) :
    (∀ k c, text[k]? = some c → ∃ v, digitValue c = some v ∧
      ∀ b, b < 4 → g.getLsbD (4 * (text.length - 1 - k) + b) = v.testBit b) ∧
    ∀ j, j < 32 → 4 * text.length ≤ j → g.getLsbD j = f.getLsbD (j - 4 * text.length) := by
  induction text generalizing f with
  | nil =>
    cases h
    exact ⟨fun k c hc => by simp at hc, fun j _ _ => rfl⟩
  | cons c rest ih =>
    have hlen : (c :: rest).length = rest.length + 1 := rfl
    rw [hlen] at hl ⊢
    rw [foldDigits] at h
    cases hv : digitValue c with
    | none => rw [hv] at h; cases h
    | some v =>
      rw [hv] at h
      obtain ⟨h1, h2⟩ := ih _ (by omega) h
      refine ⟨fun k d hk => ?_, fun j hj hle => ?_⟩
      · cases k with
        | zero =>
          obtain rfl : c = d := by simpa using hk
          refine ⟨v, hv, fun b hb => ?_⟩
          rw [show 4 * (rest.length + 1 - 1 - 0) + b = 4 * rest.length + b by omega,
            h2 _ (by omega) (by omega), getLsbD_shiftDigit _ _ (digitValue_lt hv) _ (by omega),
            if_pos (by omega), show 4 * rest.length + b - 4 * rest.length = b by omega]
        | succ k =>
          obtain ⟨w, hw, hb⟩ := h1 k d (by simpa using hk)
          exact ⟨w, hw, fun b hb' => by
            rw [show rest.length + 1 - 1 - (k + 1) = rest.length - 1 - k by omega]
            exact hb b hb'⟩
      · rw [h2 j hj (by omega), getLsbD_shiftDigit _ _ (digitValue_lt hv) _ (by omega), if_neg (by omega),
          show j - 4 * rest.length - 4 = j - 4 * (rest.length + 1) by omega]

/-- Each digit of a parsed text is the value of its 4 bits of the frame (R170, R72). -/
theorem parseText_digits {text : List Char} {f : Frame} (h : parseText text = .ok f) (k : Nat) (c : Char)
    (hk : text[k]? = some c) : digitValue c = some (f.extractLsb' (28 - 4 * k) 4).toNat := by
  unfold parseText at h
  split at h
  · rename_i hl
    obtain ⟨v, hv, hb⟩ := (foldDigits_eq_ok text 0 f (le_of_eq hl) h).1 k c hk
    have hk8 : k < 8 := hl ▸ (List.getElem?_eq_some_iff.1 hk).1
    rw [hv]
    congr 1
    apply Nat.eq_of_testBit_eq
    intro b
    rw [BitVec.testBit_toNat, BitVec.getLsbD_extractLsb']
    by_cases h4 : b < 4
    · rw [← hb b h4, hl]
      simp [h4]
      congr 1
      omega
    · rw [testBit_digit (digitValue_lt hv) (by omega)]
      simp [h4]
  · cases h

@[simp] theorem length_formatText (f : Frame) : (formatText f).length = 8 := by simp [formatText]

theorem getElem?_formatText (f : Frame) (k : Nat) (h : k < 8) :
    (formatText f)[k]? = some (hexDigit (f.extractLsb' (28 - 4 * k) 4)) := by
  simp [formatText, textDigit, h]

end Sys2Proof.Machine
end

