-- ==== Sys2Proof/Laws/Transmit.lean ====
section
/-! SUPPORT. The lengths and the items of the transmit line code, position by position (spec/42_encoder.md R173 to R177). -/

namespace Sys2Proof.Machine

@[simp] theorem length_bitItems (b : Bool) : (bitItems b).length = 2 := by cases b <;> rfl

@[simp] theorem length_bitsItems (f : Frame) (left i : Nat) : (bitsItems f left i).length = 2 * left := by
  induction left generalizing i with
  | zero => rfl
  | succ n ih =>
    rw [bitsItems, List.length_append, length_bitItems, ih]
    omega

@[simp] theorem length_repeatItems (n : Nat) : (repeatItems n).length = 6 * n := by
  induction n with
  | zero => rfl
  | succ n ih =>
    rw [repeatItems, List.length_append, ih]
    show 6 + 6 * n = _
    omega

@[simp] theorem length_frameItems (f : Frame) : (frameItems f).length = 68 := by
  simp [frameItems, headerItems, stopItems]

@[simp] theorem length_encodeItems (f : Frame) (n : Nat) : (encodeItems f n).length = 69 + 6 * n := by
  simp [encodeItems, waitItems]
  omega

/-- The mark and the space of the `k`-th bit (R173 step 2). -/
theorem getElem?_bitsItems (f : Frame) (left i k : Nat) (h : k < left) :
    (bitsItems f left i)[2 * k]? = some (.mark 560) ∧
      (bitsItems f left i)[2 * k + 1]? = some (.space (if lineBit f (i + k) then 1690 else 560)) := by
  induction left generalizing i k with
  | zero => omega
  | succ n ih =>
    cases k with
    | zero => cases hb : lineBit f i <;> simp [bitsItems, bitItems, hb, oneItems, zeroItems]
    | succ k =>
      obtain ⟨h1, h2⟩ := ih (i + 1) k (by omega)
      rw [bitsItems, List.getElem?_append_right (by rw [length_bitItems]; omega),
        List.getElem?_append_right (by rw [length_bitItems]; omega),
        length_bitItems, show 2 * (k + 1) - 2 = 2 * k by omega, show 2 * (k + 1) + 1 - 2 = 2 * k + 1 by omega,
        show i + (k + 1) = i + 1 + k by omega]
      exact ⟨h1, h2⟩

/-- The six items of the `q`-th repeat (R175). -/
theorem getElem?_repeatItems (n q k : Nat) (hq : q < n) (hk : k < 6) :
    (repeatItems n)[6 * q + k]? = (waitItems ++ repeatFrameItems ++ waitItems)[k]? := by
  induction n generalizing q with
  | zero => omega
  | succ n ih =>
    cases q with
    | zero =>
      rw [repeatItems, List.getElem?_append_left (show 6 * 0 + k < 6 by omega), Nat.mul_zero, Nat.zero_add]
    | succ q =>
      rw [repeatItems, List.getElem?_append_right (show 6 ≤ 6 * (q + 1) + k by omega)]
      have := ih q (by omega)
      rw [← this]
      congr 1
      show 6 * (q + 1) + k - 6 = _
      omega

/-- A position inside the frame part of the output. -/
theorem getElem?_encodeItems_of_lt (f : Frame) (n j : Nat) (h : j < 68) :
    (encodeItems f n)[j]? = (frameItems f)[j]? := by
  rw [encodeItems, List.append_assoc, List.getElem?_append_left (by simpa using h)]

/-- The mark and the space of bit `i` in the whole output (R177). -/
theorem getElem?_encodeItems_bit (f : Frame) (n i : Nat) (h : i < 32) :
    (encodeItems f n)[2 + 2 * i]? = some (.mark 560) ∧
      (encodeItems f n)[3 + 2 * i]? = some (.space (if lineBit f i then 1690 else 560)) := by
  have e : ∀ j, j < 64 → (frameItems f)[2 + j]? = (bitsItems f 32 0)[j]? := by
    intro j hj
    rw [frameItems, List.append_assoc, List.getElem?_append_right (show 2 ≤ 2 + j by omega),
      show 2 + j - headerItems.length = j from Nat.add_sub_cancel_left 2 j,
      List.getElem?_append_left (by simpa using hj)]
  obtain ⟨h1, h2⟩ := getElem?_bitsItems f 32 0 i h
  rw [getElem?_encodeItems_of_lt _ _ _ (by omega), getElem?_encodeItems_of_lt _ _ _ (by omega),
    show 3 + 2 * i = 2 + (2 * i + 1) by omega, e _ (by omega), e _ (by omega), h1, h2, Nat.zero_add]
  exact ⟨rfl, rfl⟩

/-- The frame read back from the spaces of the output, from bit `i` on. -/
theorem getLsbD_frameOfItems (l : List Item) (left i : Nat) (v : Frame) (hl : left ≤ 32) (j : Nat) (hj : j < 32) :
    (frameOfItems l left i v).getLsbD j =
      if j < left then decide (l[3 + 2 * (i + (left - 1 - j))]? = some (Item.space 1690))
      else v.getLsbD (j - left) := by
  induction left generalizing i v with
  | zero => simp [frameOfItems]
  | succ n ih =>
    rw [frameOfItems, ih (i + 1) _ (by omega)]
    by_cases h : j < n
    · rw [if_pos h, if_pos (by omega), show i + 1 + (n - 1 - j) = i + (n + 1 - 1 - j) by omega]
    · rw [if_neg h, getLsbD_shiftIn]
      by_cases hn : j = n
      · subst hn
        rw [if_pos (by omega), if_pos (by omega), show i + (j + 1 - 1 - j) = i by omega]
        rfl
      · rw [if_neg (by omega), if_neg (by omega), show j - n - 1 = j - (n + 1) by omega]
        have : j - n < 32 := by omega
        simp [this]

/-- The spaces of the output spell its frame (R177 read backwards). -/
theorem frameOfItems_encodeItems (f : Frame) (n : Nat) : frameOfItems (encodeItems f n) 32 0 0 = f := by
  apply BitVec.eq_of_getLsbD_eq
  intro j hj
  rw [getLsbD_frameOfItems _ _ _ _ (le_refl 32) _ hj, if_pos hj, Nat.zero_add,
    (getElem?_encodeItems_bit f n (32 - 1 - j) (by omega)).2, lineBit, show 31 - (32 - 1 - j) = j by omega]
  cases f.getLsbD j <;> decide

end Sys2Proof.Machine
end

