-- ==== Sys2Proof/Tests/Slice0.lean ====
section
/-! SUPPORT. Tests: ill-formed terms, decoding of words written out from the spec's encodings, one-step vectors of
spec/95_test_vectors.md (each cites its own), and for every statement with hypotheses a witness that meets them. -/

namespace Sys2Proof.Tests

open Sys2Proof Sys2Proof.Machine

/-! ### Helpers -/

/-- The frame of the source's code example (R84). -/
def exampleFrame : Frame := 0x768910EF

/-- TX67(0x768910EF), transcribed. -/
def tx67 : List Nat :=
  [9000, 4500, 560, 560, 560, 1690, 560, 1690, 560, 1690, 560, 560, 560, 1690, 560, 1690, 560] ++
  [560, 560, 1690, 560, 560, 560, 560, 560, 560, 560, 1690, 560, 560, 560, 560, 560, 1690] ++
  [560, 560, 560, 560, 560, 560, 560, 1690, 560, 560, 560, 560, 560, 560, 560, 560, 560] ++
  [1690, 560, 1690, 560, 1690, 560, 560, 560, 1690, 560, 1690, 560, 1690, 560, 1690, 560]

/-- RX66(0x768910EF), transcribed. -/
def rx66 : List Nat :=
  [9000, 4500, 562, 562, 562, 1688, 562, 1688, 562, 1688, 562, 562, 562, 1688, 562, 1688, 562] ++
  [562, 562, 1688, 562, 562, 562, 562, 562, 562, 562, 1688, 562, 562, 562, 562, 562, 1688] ++
  [562, 562, 562, 562, 562, 562, 562, 1688, 562, 562, 562, 562, 562, 562, 562, 562, 562] ++
  [1688, 562, 1688, 562, 1688, 562, 562, 562, 1688, 562, 1688, 562, 1688, 562, 1688]

/-- REP3. -/
def rep3 : List Nat := [9000, 2250, 560]

/-- The items of T-ENC-1, transcribed. -/
def encItems : List Item :=
  ([.seg true 9000, .seg false 4500, .seg true 560, .seg false 560, .seg true 560, .seg false 1690] : List Item) ++
  ([.seg true 560, .seg false 1690, .seg true 560, .seg false 1690, .seg true 560, .seg false 560] : List Item) ++
  ([.seg true 560, .seg false 1690, .seg true 560, .seg false 1690, .seg true 560, .seg false 560] : List Item) ++
  ([.seg true 560, .seg false 1690, .seg true 560, .seg false 560, .seg true 560, .seg false 560] : List Item) ++
  ([.seg true 560, .seg false 560, .seg true 560, .seg false 1690, .seg true 560, .seg false 560] : List Item) ++
  ([.seg true 560, .seg false 560, .seg true 560, .seg false 1690, .seg true 560, .seg false 560] : List Item) ++
  ([.seg true 560, .seg false 560, .seg true 560, .seg false 560, .seg true 560, .seg false 1690] : List Item) ++
  ([.seg true 560, .seg false 560, .seg true 560, .seg false 560, .seg true 560, .seg false 560] : List Item) ++
  ([.seg true 560, .seg false 560, .seg true 560, .seg false 1690, .seg true 560, .seg false 1690] : List Item) ++
  ([.seg true 560, .seg false 1690, .seg true 560, .seg false 560, .seg true 560, .seg false 1690] : List Item) ++
  ([.seg true 560, .seg false 1690, .seg true 560, .seg false 1690, .seg true 560, .seg false 1690] : List Item) ++
  ([.seg true 560, .seg false 0, .gap 40000] : List Item)

/-- `fill(n)` of the capture vectors: `n` pulses of 500. -/
def fill (n : Nat) : List Nat := List.replicate n 500

/-- A state with the block's elements in the order of the vectors' records. -/
def stateOf (buf : List Nat) (ready : Bool) (lastEdgeTime : Nat) (last : Option LastCommand) : State :=
  { State.reset with
    block := { buf := buf, ready := ready, lastEdgeTime := lastEdgeTime, last := last }
    clock := lastEdgeTime }

/-- The block and the outputs after one instruction. -/
def after (i : Instr) (s : State) : Option (Block × List Event) :=
  match exec i s with
  | .next t => some (t.block, t.outputs)
  | .fault _ => none
  | .refused _ => none

/-- The block and the outputs after one step. -/
def afterStep (s : State) : Option (Block × List Event) :=
  match step s with
  | .next t => some (t.block, t.outputs)
  | .fault _ => none
  | .refused _ => none

/-- The only outputs of one instruction on the reset state, when it leaves the block alone. -/
def outputsOf (i : Instr) : Option (List Event) :=
  match after i State.reset with
  | some (b, l) => if b = State.reset.block then some l else none
  | none => none

/-! ### WellFormed refuses an ill-formed term of each check -/

theorem test_illformed_hexText : (Instr.hexText "0x768910".toList).wf = false := by decide
theorem test_illformed_rxLeadIn : (Instr.rxLeadIn 20000).wf = false := by decide
theorem test_illformed_rxHdrMark : (Instr.rxHdrMark 9401).wf = false := by decide
theorem test_illformed_rxHdrSpace : (Instr.rxHdrSpace 4099).wf = false := by decide
theorem test_illformed_rxRptSpace : (Instr.rxRptSpace 2651).wf = false := by decide
theorem test_illformed_rxBitMark : (Instr.rxBitMark 31 161).wf = false := by decide
theorem test_illformed_rxOneSpace : (Instr.rxOneSpace 0 1287).wf = false := by decide
theorem test_illformed_rxZeroSpace : (Instr.rxZeroSpace 0 963).wf = false := by decide
theorem test_illformed_rxStandardFrame : (Instr.rxStandardFrame (rx66.take 65)).wf = false := by rfl
theorem test_illformed_rxRepeatFrame : (Instr.rxRepeatFrame [9000, 2250]).wf = false := by decide

/-! ### Decoding of words written out from the encodings -/

/-- R83, with the tuples of the conventions of spec/95_test_vectors.md. -/
theorem test_decode_capture_words :
    decode (.op 0 [.num 500000]) = .ok (.reset 500000) ∧
    decode (.op 1 [.num 59000, .num 1]) = .ok (.edge 59000 true) ∧
    decode (.op 2 [.num 4500, .num 0]) = .ok (.record 4500 false) ∧
    decode (.op 3 [.num 71001]) = .ok (.timeoutCheck 71001) ∧
    decode (.op 4 []) = .ok .takeSnapshot := by decide

theorem test_decode_decoder_words :
    decode (.op 5 [.num 8600, .num 9000]) = .ok (.matchPulse 8600 9000) ∧
    decode (.op 6 [.seq [9000, 2250, 560], .num 500001]) = .ok (.decode [9000, 2250, 560] 500001) ∧
    decode (.op 7 [.num 70000, .num 70001]) = .ok (.poll 70000 70001) := by decide

theorem test_decode_encoder_words :
    decode (.op 8 [.text "768910ef".toList]) = .ok (.parseHex "768910ef".toList) ∧
    decode (.op 9 [.num 0x00FF629D]) = .ok (.formatHex 0x00FF629D) ∧
    decode (.op 10 [.num 0xFFFFFFFF, .num 3]) = .ok (.encode 0xFFFFFFFF 3) ∧
    decode (.op 11 [.text "76891".toList, .num 0]) = .ok (.send (.text "76891".toList) 0) ∧
    decode (.op 11 [.num 0x768910EF, .num 2]) = .ok (.send (.frame 0x768910EF) 2) := by decide

/-- R71, R72. -/
theorem test_decode_frame_words :
    decode (.nec32 0x768910EF) = .ok (.necFrame 0x768910EF) ∧
    decode (.hex8 "768910EF".toList) = .ok (.hexText "768910EF".toList) := by decide

/-- R74, R132: both ends of ranges, first and last positions. -/
theorem test_decode_receive_symbols :
    decode (.rxSym 0 20001) = .ok (.rxLeadIn 20001) ∧
    decode (.rxSym 0 8600) = .ok (.rxHdrMark 8600) ∧
    decode (.rxSym 1 4900) = .ok (.rxHdrSpace 4900) ∧
    decode (.rxSym 1 1850) = .ok (.rxRptSpace 1850) ∧
    decode (.rxSym 2 162) = .ok (.rxBitMark 0 162) ∧
    decode (.rxSym 64 962) = .ok (.rxBitMark 31 962) ∧
    decode (.rxSym 3 1288) = .ok (.rxOneSpace 0 1288) ∧
    decode (.rxSym 65 962) = .ok (.rxZeroSpace 31 962) := by decide

/-- R75. -/
theorem test_decode_standard_frame : decode (.rxFrame ([25000] ++ rx66)) = .ok (.rxStandardFrame ([25000] ++ rx66)) := by
  rfl

theorem test_decode_repeat_frame : decode (.rxFrame [9400, 2650, 162, 7]) = .ok (.rxRepeatFrame [9400, 2650, 162, 7]) := by
  decide

/-- R78. -/
theorem test_decode_transmit_symbols :
    decode (.txSym [.seg true 9000, .seg false 4500]) = .ok .txHeader ∧
    decode (.txSym [.seg true 560, .seg false 1690]) = .ok .txBit1 ∧
    decode (.txSym [.seg true 560, .seg false 560]) = .ok .txBit0 ∧
    decode (.txSym [.seg true 560, .seg false 0]) = .ok .txStop ∧
    decode (.txSym [.seg true 9000, .seg false 2250, .seg true 560, .seg false 0]) = .ok .txRepeatFrame ∧
    decode (.txSym [.gap 40000]) = .ok .txWait := by decide

/-- T-ENC-1 read backwards. -/
theorem test_decode_transmit_output : decode (.txFrame encItems) = .ok (.txOutput 0x768910EF 0) := by decide +kernel

/-- R83, R221. -/
theorem test_decode_results_and_causes :
    decode (.result 0 none) = .ok .resultNone ∧
    decode (.result 1 (some 0x768910EF)) = .ok (.resultCommand 0x768910EF) ∧
    decode (.result 2 none) = .ok .resultRepeat ∧
    decode (.cause 1) = .ok .causeMalformedInput ∧
    decode (.cause 2) = .ok .causeTimingMismatch ∧
    decode (.cause 3) = .ok .causeBufferOverflow ∧
    decode (.cause 4) = .ok .causeChecksumMismatch := by decide

/-- Operation 12, tag 3, causes 0 and 5, a level of 2, a frame of 33 bits, a missing operand (R83, R221, R71). -/
theorem test_decode_refuses_numbers :
    decode (.op 12 []) = .error .unassignedOperation ∧
    decode (.op 15 [.num 0]) = .error .unassignedOperation ∧
    decode (.result 3 none) = .error .unassignedTag ∧
    decode (.cause 0) = .error .unassignedCause ∧
    decode (.cause 5) = .error .unassignedCause ∧
    decode (.op 2 [.num 500, .num 2]) = .error .levelWidth ∧
    decode (.op 9 [.num 0x100000000]) = .error .frameWidth ∧
    decode (.op 7 [.num 5]) = .error .operandShape := by decide

/-- R80: the dead band, 20000 at position 0, position 66, an ill-formed text, no layout. -/
theorem test_decode_refuses_words :
    decode (.rxSym 3 1125) = .error .noSymbol ∧
    decode (.rxSym 0 20000) = .error .noSymbol ∧
    decode (.rxSym 66 562) = .error .unreadPosition ∧
    decode (.hex8 "76891 EF".toList) = .error .notHexText ∧
    decode (.rxFrame [9000, 2250]) = .error .noLayout ∧
    decode (.txSym [.seg true 560, .seg false 561]) = .error .noTransmitSymbol ∧
    decode (.txFrame (encItems.take 68)) = .error .noTransmitOutput ∧
    decode (.result 2 (some 0)) = .error .payloadShape := by
  refine ⟨by decide, by decide, by decide, by decide, by decide, by decide, by decide +kernel, by decide⟩

/-- The opcode table's own bits. -/
theorem test_decode_table_words :
    decodeTableWord 8 0x1 = some (.edge 0 false) ∧ decodeTableWord 8 0xB = some (.send (.text []) 0) ∧
    decodeTableWord 32 0x768910EF = some (.necFrame 0x768910EF) ∧ decodeTableWord 8 0xC = none := by decide

/-! ### Reset -/

/-- T-RST-1. -/
theorem test_reset_forgets :
    after (.reset 500000) (stateOf (fill 68) true 117980 (some ⟨exampleFrame, 120000⟩)) =
      some (⟨[], false, 500000, none⟩, []) := by decide

/-- R251: a RESET after `now_B` of a POLL in flight ends the POLL, and a snapshot can be taken at once. -/
theorem test_reset_ends_poll :
    exec (.reset 2000) { stateOf rep3 true 7 none with go := some 1000 } =
      .next { State.reset with block := Block.reset 2000, clock := 2000 } ∧
    afterStep { State.reset with
      block := Block.reset 2000, clock := 2000, requests := [.request .polling (.op 4 [])] } =
      some (Block.reset 2000, [.snapshot []]) := ⟨rfl, rfl⟩

/-! ### Capture -/

/-- T-EDGE-1. -/
theorem test_edge_stores : after (.edge 10000 true) (stateOf [] false 1000 none) =
    some (⟨[9000], false, 10000, none⟩, [.recordOutcome .stored]) := by decide

/-- T-EDGE-2: the time stamp moves although the pulse is noise. -/
theorem test_edge_noise_moves_time : after (.edge 10050 false) (stateOf [9000] false 10000 none) =
    some (⟨[9000], false, 10050, none⟩, [.recordOutcome .ignored]) := by decide

/-- T-CAP-2: noise at a full buffer does not clear it. -/
theorem test_record_noise_first : after (.record 99 false) (stateOf (fill 100) true 0 none) =
    some (⟨fill 100, true, 0, none⟩, [.recordOutcome .ignored]) := by decide

/-- T-CAP-3b and T-CAP-5, T-CAP-6, T-CAP-7, T-CAP-8, T-CAP-9, T-CAP-10. -/
theorem test_record_overflow_and_readiness :
    after (.record 500 false) (stateOf (fill 100) true 0 none) =
      some (⟨[], true, 0, none⟩, [.diag .overflow, .recordOutcome .dropped]) ∧
    after (.record 30001 true) (stateOf (fill 30) false 0 none) =
      some (⟨fill 30 ++ [30001], true, 0, none⟩, [.recordOutcome .stored]) ∧
    after (.record 30000 true) (stateOf (fill 30) false 0 none) =
      some (⟨fill 30 ++ [30000], false, 0, none⟩, [.recordOutcome .stored]) ∧
    after (.record 30001 true) (stateOf (fill 29) false 0 none) =
      some (⟨fill 29 ++ [30001], false, 0, none⟩, [.recordOutcome .stored]) ∧
    after (.record 30001 false) (stateOf (fill 30) false 0 none) =
      some (⟨fill 30 ++ [30001], false, 0, none⟩, [.recordOutcome .stored]) ∧
    after (.record 500 false) (stateOf (fill 66) false 0 none) =
      some (⟨fill 67, false, 0, none⟩, [.recordOutcome .stored]) ∧
    after (.record 500 false) (stateOf (fill 67) false 0 none) =
      some (⟨fill 68, true, 0, none⟩, [.recordOutcome .stored]) := by
  refine ⟨by decide, by decide, by decide, by decide, by decide, by decide, by decide⟩

/-- T-TMO-1, T-TMO-2, T-TMO-3. -/
theorem test_timeoutCheck_boundaries :
    after (.timeoutCheck 81000) (stateOf (fill 10) false 1000 none) = some (⟨fill 10, false, 1000, none⟩, []) ∧
    after (.timeoutCheck 71000) (stateOf (fill 11) false 1000 none) = some (⟨fill 11, false, 1000, none⟩, []) ∧
    after (.timeoutCheck 71001) (stateOf (fill 11) false 1000 none) = some (⟨fill 11, true, 1000, none⟩, []) := by
  decide

/-- T-SNAP-1. -/
theorem test_takeSnapshot_drains : after .takeSnapshot (stateOf rep3 true 7 (some ⟨0, 3⟩)) =
    some (⟨[], false, 7, some ⟨0, 3⟩⟩, [.snapshot [9000, 2250, 560]]) := by decide

/-! ### Decoder -/

/-- T-MATCH, its boundary columns. -/
theorem test_match_boundaries :
    matchUs 8599 9000 = false ∧ matchUs 8600 9000 = true ∧ matchUs 9400 9000 = true ∧ matchUs 9401 9000 = false ∧
    matchUs 161 562 = false ∧ matchUs 162 562 = true ∧ matchUs 2088 1688 = true ∧ matchUs 2089 1688 = false := by
  decide

theorem test_match_replies : outputsOf (.matchPulse 1125 562) = some [.matchBit false] := by decide

/-- T-DEC-1. -/
theorem test_decode_command : after (.decode tx67 500000) (stateOf [] false 0 none) =
    some (⟨[], false, 0, some ⟨0x768910EF, 500000⟩⟩, [.decodeResult (.command 0x768910EF)]) := by rfl

/-- T-DEC-23c and T-DEC-23d. -/
theorem test_decode_repeat_window :
    after (.decode rep3 450999) (stateOf [] false 0 (some ⟨exampleFrame, 1000⟩)) =
      some (⟨[], false, 0, some ⟨exampleFrame, 1000⟩⟩, [.decodeResult .repeatFrame]) ∧
    after (.decode rep3 451000) (stateOf [] false 0 (some ⟨exampleFrame, 1000⟩)) =
      some (⟨[], false, 0, some ⟨exampleFrame, 1000⟩⟩, [.decodeResult .none]) := by decide

/-- The reasons of T-DEC-5, T-DEC-6, T-DEC-7a, T-DEC-7f, T-DEC-8. -/
theorem test_verdict_reasons :
    verdict ([20000] ++ rx66) none 1000 = .none .badHdrMark ∧
    verdict ([25000, 25000] ++ rx66) none 1000 = .none .badHdrMark ∧
    verdict [] none 1000 = .none .short ∧
    verdict [9000, 2250] (some ⟨exampleFrame, 900⟩) 1000 = .none .badHdrSpace ∧
    verdict (rx66.take 65) none 1000 = .none .shortFrame ∧
    verdict rep3 none 5 = .none .repeatRejected := by
  refine ⟨by rfl, by rfl, by rfl, by rfl, by rfl, by rfl⟩

/-- The reasons of T-DEC-12, T-DEC-14 and, at the last accepted value, T-DEC-15. -/
theorem test_verdict_bit_reasons :
    verdict (rx66.set 12 963) none 1000 = .none (.badBitMark 5) ∧
    verdict (rx66.set 65 2089) none 1000 = .none (.badBitSpace 31) ∧
    verdict (rx66.set 65 2088) none 1000 = .command 0x768910EF := by
  refine ⟨by rfl, by rfl, by rfl⟩

/-- T-DEC-22a and T-DEC-22b: which checksum is reported. -/
theorem test_checksum_diags :
    rxChecksumDiags 0x1234A55A = [.diag .rxAddrChecksum] ∧ rxChecksumDiags 0x00FF1234 = [.diag .rxCmdChecksum] ∧
    rxChecksumDiags 0x00FF629D = [] := by decide

/-- T-FSM-1 and T-FSM-5. -/
theorem test_fsm_traces :
    fsmResult [25000, 9000, 2250, 560] (some ⟨exampleFrame, 0⟩) 100 = .repeatFrame ∧
    fsmResult [9000, 4500] none 100 = .none := by decide

/-! ### Polling -/

/-- T-POLL-2 and the first phase of T-POLL-3. -/
theorem test_poll_phase_a :
    after (.poll 70000 70000) (stateOf tx67 false 0 none) = some (⟨tx67, false, 0, none⟩, [.decodeResult .none]) ∧
    after (.poll 70001 70001) (stateOf tx67 false 0 none) = some (⟨tx67, true, 0, none⟩, []) := by decide

/-- T-POLL-5, its last step: the pulse stored between the phases is in the snapshot. -/
theorem test_poll_phase_b :
    afterStep { stateOf (tx67 ++ [70002]) true 70002 none with go := some 70003, requests := [.resume] } =
      some (⟨[], false, 70002, some ⟨0x768910EF, 70003⟩⟩, [.decodeResult (.command 0x768910EF)]) := by rfl

/-! ### Encoder -/

/-- T-HEX-2, T-HEX-8. -/
theorem test_parseHex :
    outputsOf (.parseHex "768910ef".toList) = some [.frameWord 0x768910EF] ∧
    outputsOf (.parseHex "0x768910".toList) = some [.encodeError] ∧
    parseText "0x768910".toList = .error .badDigit := by decide

/-- T-HEX-11: the length is tested first. -/
theorem test_parseHex_length_first :
    outputsOf (.parseHex "0x768910EF".toList) = some [.encodeError] ∧
    parseText "0x768910EF".toList = .error .badLength := by decide

/-- T-HEX-13, T-HEX-14. -/
theorem test_formatHex :
    outputsOf (.formatHex 0x00FF629D) = some [.hexText "00FF629D".toList] ∧
    outputsOf (.formatHex 0xABCDEF01) = some [.hexText "ABCDEF01".toList] := by decide

/-- T-ENC-1. -/
theorem test_encode_example : outputsOf (.encode 0x768910EF 0) = some [.items encItems] := by rfl

/-- T-ENC-2: the tail of two repeats. -/
theorem test_encode_repeats : (encodeItems 0x768910EF 2).drop 69 =
    [.gap 40000, .seg true 9000, .seg false 2250, .seg true 560, .seg false 0, .gap 40000,
      .gap 40000, .seg true 9000, .seg false 2250, .seg true 560, .seg false 0, .gap 40000] := by rfl

/-- T-SEND-1 and T-SEND-3. -/
theorem test_send :
    outputsOf (.send (.text "768910EF".toList) 0) = some [.sendReply true encItems] ∧
    outputsOf (.send (.text "76891".toList) 0) = some [.sendReply false []] := by
  refine ⟨by rfl, by decide⟩

/-- R204: SEND of a frame word; the items are those of T-ENC-1, also for the driver. -/
theorem test_send_frame : exec (.send (.frame 0x768910EF) 0) State.reset =
    .next { State.reset with playing := encItems, outputs := [.sendReply true encItems] } := by rfl

/-- T-SEND-5: both warnings, then the reply. -/
theorem test_send_warns : outputsOf (.send (.text "00000000".toList) 0) =
    some [.diag .txAddrChecksum, .diag .txCmdChecksum, .sendReply true (encodeItems 0 0)] := by rfl

/-! ### Rows that are no operation -/

/-- R84. -/
theorem test_necFrame : outputsOf (.necFrame 0x768910EF) = some [.frameFields 0x76 0x89 0x10 0xEF true true] := by decide

/-- R72. -/
theorem test_hexText : outputsOf (.hexText "00FF629D".toList) = some [.frameWord 0x00FF629D] := by decide

/-- R74, at the ends of the ranges. -/
theorem test_receive_symbols :
    outputsOf (.rxLeadIn 20001) = some [.symbol .leadIn true] ∧
    outputsOf (.rxHdrMark 9401) = some [.symbol .hdrMark false] ∧
    outputsOf (.rxHdrSpace 4100) = some [.symbol .hdrSpace true] ∧
    outputsOf (.rxRptSpace 1849) = some [.symbol .rptSpace false] ∧
    outputsOf (.rxBitMark 5 963) = some [.symbol .bitMark false] ∧
    outputsOf (.rxOneSpace 4 1288) = some [.symbol .oneSpace true, .lineBit 4 true] ∧
    outputsOf (.rxZeroSpace 31 962) = some [.symbol .zeroSpace true, .lineBit 31 false] := by decide

/-- R75, R76, with the lead-in of T-DEC-3. -/
theorem test_receive_layouts :
    outputsOf (.rxStandardFrame ([25000] ++ rx66)) = some [.frameWord 0x768910EF] ∧
    outputsOf (.rxRepeatFrame rep3) = some [.repeatLayout] := by
  refine ⟨by rfl, by decide⟩

/-- R78: two symbols whose space is easily swapped. -/
theorem test_transmit_bits :
    outputsOf .txBit1 = some [.items [.seg true 560, .seg false 1690]] ∧
    outputsOf .txBit0 = some [.items [.seg true 560, .seg false 560]] := by decide

/-- T-ENC-1. -/
theorem test_txOutput : outputsOf (.txOutput 0x768910EF 0) = some [.items encItems] := by rfl

/-- R221, D2: the row for overflow says that overflow empties the buffer, and empties none itself. -/
theorem test_causes :
    after .causeBufferOverflow (stateOf rep3 true 9 none) =
      some (⟨rep3, true, 9, none⟩, [.cause .bufferOverflow .emptiesBuffer .overflowDiag]) ∧
    outputsOf .causeChecksumMismatch = some [.cause .checksumMismatch .unchanged .resultWithDiagnostic] := by decide

/-! ### Steps -/

/-- A word of the opcode table placed after reset is the first instruction that runs. -/
theorem test_step_runs_placed_word :
    step (State.reset.withFetchWord 8 0x4) = exec .takeSnapshot State.reset ∧
    step (State.reset.withFetchWord 8 0x7) = exec (.poll 0 0) State.reset ∧
    step (State.reset.withFetchWord 32 0x768910EF) = exec (.necFrame 0x768910EF) State.reset := ⟨rfl, rfl, rfl⟩

/-- R205: a SEND while the driver has an item to play is refused, and runs after that item is played. -/
theorem test_step_second_send :
    step { State.reset with playing := [.gap 40000], requests := [.request .dispatch (.op 11 [.text [], .num 0])] } =
      .refused .driverBusy ∧
    step { State.reset with
      playing := [.gap 40000]
      requests := [.itemPlayed, .request .dispatch (.op 11 [.text [], .num 0])] } =
      .next { State.reset with requests := [.request .dispatch (.op 11 [.text [], .num 0])] } := ⟨rfl, rfl⟩

/-- R203: the dispatch collaborator cannot take a snapshot. -/
theorem test_step_dispatch_snapshot :
    step { State.reset with requests := [.request .dispatch (.op 4 [])] } = .refused (.wrongAgent .dispatch) := rfl

/-- An idle block goes on. -/
theorem test_step_idles : step State.reset = .next State.reset := rfl

/-! ### Witnesses: states and operands that meet the hypotheses of the statements -/

/-- A state with a buffer, a raised flag and a repeat state, all stamps at or below its clock. -/
def busyState : State :=
  { stateOf [9000, 2250, 560] true 1000 (some ⟨exampleFrame, 900⟩) with clock := 1000 }

theorem busy_admits : StampNotEarlier busyState 1000 := by
  refine ⟨by decide, by decide, fun l h => ?_⟩
  cases h; decide

theorem reset_admits (t : Nat) : StampNotEarlier State.reset t :=
  ⟨Nat.zero_le t, Nat.zero_le t, fun _ h => by cases h⟩

theorem witness_ResetLeavesTheResetValues : StampNotEarlier busyState 1000 := busy_admits

/-- A RESET after `now_B` of a POLL in flight, and an operation of the polling path after it. -/
theorem witness_AfterResetEveryInstructionIsAccepted :
    (∃ t, exec (.reset 2000) { busyState with go := some 1000 } = .next t ∧ MeetsClockPremise (.timeoutCheck 2000) t) ∧
      decode (.op 3 [.num 2000]) = .ok (.timeoutCheck 2000) ∧ busyState.playing = [] ∧
      ∀ code n, Instr.timeoutCheck 2000 ≠ .send code n :=
  ⟨⟨_, rfl, fun t h => by cases h; exact ⟨by decide, by decide, fun l h => by cases h⟩, fun _ _ h => by cases h⟩,
    by decide, rfl, fun _ _ h => (nomatch h)⟩

theorem witness_StepKeepsInvariant :
    State.Inv { busyState with requests := [.request .capture (.op 1 [.num 2000, .num 0])] } ∧
      ∃ t, step { busyState with requests := [.request .capture (.op 1 [.num 2000, .num 0])] } = .next t :=
  ⟨⟨by decide, by decide, fun l h => by cases h; decide⟩, _, rfl⟩

theorem witness_EveryInstructionCompletesOnMonotoneClock :
    MeetsClockPremise (.poll 1000 1000) busyState ∧ MeetsClockPremise .takeSnapshot busyState :=
  ⟨⟨fun t h => by cases h; exact busy_admits, fun a b h => by cases h; exact Nat.le_refl _⟩,
    ⟨fun t h => (by cases h), fun a b h => (by cases h)⟩⟩

/-- Each of the three ways a stamp can be too early. -/
theorem witness_StampBeforeTheClockIsRefused :
    999 < busyState.clock ∧ 999 < busyState.block.lastEdgeTime ∧ ∃ l, busyState.block.last = some l ∧ 899 < l.time :=
  ⟨by decide, by decide, _, rfl, by decide⟩

theorem witness_OnlyTheClockPremiseStopsAnInstruction :
    exec (.edge 999 true) busyState = .refused .clockNotMonotone ∧
      exec (.poll 1001 1000) busyState = .refused .clockNotMonotone := ⟨rfl, rfl⟩

theorem witness_EdgeRecordsTheTimeSinceTheLastEdge : StampNotEarlier busyState 1000 := busy_admits

/-- One state and duration for each clause, at the boundary. -/
theorem witness_RecordIgnoresDropsOrStores :
    99 < 100 ∧ (100 ≤ 100 ∧ (stateOf (fill 100) true 0 none).block.buf.length = 100) ∧
      (100 ≤ 100 ∧ (stateOf (fill 99) true 0 none).block.buf.length ≠ 100) := by decide

theorem witness_TimeoutCheckForcesReady : StampNotEarlier busyState 1000 := busy_admits

theorem witness_ReadyIsStickyUntilSnapshotOrReset :
    busyState.block.ready = true ∧
      (∃ t, exec .takeSnapshot busyState = .next t ∧ t.block.ready = false) ∧
      ∃ t, exec (.reset 1000) busyState = .next t ∧ t.block.ready = false :=
  ⟨rfl, ⟨_, rfl, rfl⟩, ⟨_, rfl, rfl⟩⟩

/-- An instruction that appends, and each of the three that empty the buffer. -/
theorem witness_PulsesLeaveOnlyAllTogether :
    (∃ t, exec (.record 100 false) State.reset = .next t ∧ t.block.buf = [100]) ∧
      (∃ t, exec .takeSnapshot busyState = .next t ∧ t.block.buf = []) ∧
      (∃ t, exec (.reset 1000) busyState = .next t ∧ t.block.buf = []) ∧
      ∃ t, exec (.record 100 false) (stateOf (fill 100) true 0 none) = .next t ∧ t.block.buf = [] :=
  ⟨⟨_, rfl, rfl⟩, ⟨_, rfl, rfl⟩, ⟨_, rfl, rfl⟩, ⟨_, rfl, rfl⟩⟩

/-- An instruction that changes each element. -/
theorem witness_OnlyItsWritersWriteAnElement :
    (∃ t, exec .takeSnapshot busyState = .next t ∧ t.block.buf ≠ busyState.block.buf) ∧
      (∃ t, exec .takeSnapshot busyState = .next t ∧ t.block.ready ≠ busyState.block.ready) ∧
      (∃ t, exec (.edge 1050 true) busyState = .next t ∧ t.block.lastEdgeTime ≠ busyState.block.lastEdgeTime) ∧
      ∃ t, exec (.reset 1000) busyState = .next t ∧ t.block.last ≠ busyState.block.last :=
  ⟨⟨_, rfl, by decide⟩, ⟨_, rfl, by decide⟩, ⟨_, rfl, by decide⟩, ⟨_, rfl, by decide⟩⟩

/-- Each of the two that change `go`, and the one that changes what is played. -/
theorem witness_InstructionsOnlyAddOutputs :
    (∃ t, exec (.poll 1000 2000) busyState = .next t ∧ t.go ≠ busyState.go) ∧
      (∃ t, exec (.reset 2000) { busyState with go := some 1000 } = .next t ∧ t.go ≠ some 1000) ∧
      ∃ t, exec (.send (.text "00000000".toList) 0) busyState = .next t ∧ t.playing ≠ busyState.playing :=
  ⟨⟨_, rfl, by decide⟩, ⟨_, rfl, by decide⟩, ⟨_, rfl, by decide⟩⟩

theorem rx66_layout : StandardLayout rx66 exampleFrame := (standardFrame_eq_ok rx66 exampleFrame).1 (by decide +kernel)

theorem rep3_layout : RepeatLayout rep3 := (isRepeatShaped_iff rep3).1 (by decide)

/-- The layout at the lower ends of the ranges, without and behind a lead-in. -/
theorem withoutLeadIn_both (p : List Nat) (h : ∀ d, p.head? = some d → d ≤ 20000) :
    WithoutLeadIn p p ∧ WithoutLeadIn (20001 :: p) p :=
  ⟨.inr ⟨rfl, h⟩, .inl ⟨20001, by decide, rfl⟩⟩

theorem rx66_withoutLeadIn : WithoutLeadIn rx66 rx66 ∧ WithoutLeadIn (20001 :: rx66) rx66 :=
  withoutLeadIn_both rx66 (fun d h => by cases h; decide)

theorem rep3_withoutLeadIn : WithoutLeadIn rep3 rep3 ∧ WithoutLeadIn (20001 :: rep3) rep3 :=
  withoutLeadIn_both rep3 (fun d h => by cases h; decide)

theorem witness_DecodeOfStandardFrameIsItsCommand :
    StampNotEarlier busyState 1000 ∧ WithoutLeadIn (20001 :: rx66) rx66 ∧ StandardLayout rx66 exampleFrame :=
  ⟨busy_admits, rx66_withoutLeadIn.2, rx66_layout⟩

/-- The window's last accepted and first rejected instant (R145), and no `Command` before. -/
theorem witness_DecodeOfRepeatShapeLooksAtTheWindow :
    StampNotEarlier busyState 1000 ∧ WithoutLeadIn rep3 rep3 ∧ RepeatLayout rep3 ∧
      (∃ l, busyState.block.last = some l ∧ 450899 - l.time < 450000) ∧
      (∀ l, busyState.block.last = some l → 450000 ≤ 450900 - l.time) ∧
      ∀ l, State.reset.block.last = some l → 450000 ≤ 5 - l.time :=
  ⟨busy_admits, rep3_withoutLeadIn.1, rep3_layout, ⟨_, rfl, by decide⟩, fun l h => by cases h; decide,
    fun l h => by cases h⟩

theorem two_pulses_no_layout :
    ¬ RepeatLayout [9000, 2250] ∧ ∀ f, ¬ StandardLayout [9000, 2250] f :=
  ⟨fun h => absurd ((isRepeatShaped_iff _).2 h) (by decide),
    fun f h => by
      have := (standardFrame_eq_ok _ f).2 h
      cases this⟩

theorem witness_DecodeOfNeitherLayoutIsNone :
    StampNotEarlier busyState 1000 ∧ WithoutLeadIn [9000, 2250] [9000, 2250] ∧
      ¬ RepeatLayout [9000, 2250] ∧ ∀ f, ¬ StandardLayout [9000, 2250] f :=
  ⟨busy_admits, .inr ⟨rfl, fun d h => by cases h; decide⟩, two_pulses_no_layout⟩

/-- Both sides of the equivalence hold here. -/
theorem witness_CommandExactlyOnStandardLayout :
    StampNotEarlier busyState 1000 ∧ WithoutLeadIn rx66 rx66 ∧ StandardLayout rx66 exampleFrame :=
  ⟨busy_admits, rx66_withoutLeadIn.1, rx66_layout⟩

/-- A second first pulse at 20000 and one at 20001. -/
theorem witness_LeadInIsDiscardedOnce :
    StampNotEarlier busyState 1000 ∧ 20000 < 20001 ∧
      (∀ e, (20000 :: rx66).head? = some e → e ≤ 20000) ∧
      ∃ e, (20001 :: rx66).head? = some e ∧ 20000 < e :=
  ⟨busy_admits, by decide, fun e h => by cases h; decide, _, rfl, by decide⟩

theorem witness_PulseByPulseFormAgreesWithDecode : StampNotEarlier busyState 1000 := busy_admits

theorem witness_RepeatStateIsForgottenOnlyByReset :
    busyState.block.last.isSome = true ∧
      (∃ t, exec (.decode rep3 1000) busyState = .next t ∧ t.block.last.isSome = true) ∧
      ∃ t, exec (.reset 1000) busyState = .next t ∧ t.block.last = none :=
  ⟨rfl, ⟨_, rfl, rfl⟩, ⟨_, rfl, rfl⟩⟩

theorem witness_EncodedFrameDecodesToItself : StampNotEarlier busyState 1000 := busy_admits

/-- A ready buffer, a timed-out one at the boundary, and one that is neither. -/
theorem witness_PollPhaseAChecksTimeoutThenReady :
    1000 ≤ 1000 ∧ StampNotEarlier busyState 1000 ∧ busyState.block.ready = true ∧
      ((stateOf (fill 11) false 0 none).block.buf.length > 10 ∧ 70001 - 0 > 70000) ∧
      (stateOf (fill 11) false 0 none).block.ready = false ∧
      ¬ ((stateOf (fill 11) false 0 none).block.buf.length > 10 ∧ 70000 - 0 > 70000) :=
  ⟨by decide, busy_admits, rfl, by decide, rfl, by decide⟩

theorem witness_PollWithStampsOutOfOrderIsRefused : 999 < 1000 := by decide

/-- A POLL in flight with no turn left, and with its own turn next. -/
theorem witness_PollPhaseBDecodesTheSnapshot :
    (({ busyState with go := some 1000 } : State).go = some 1000) ∧
      StampNotEarlier { busyState with go := some 1000 } 1000 ∧ busyState.requests = [] ∧
      ({ busyState with requests := [.resume] } : State).requests.head? = some .resume :=
  ⟨rfl, busy_admits, rfl, rfl⟩

theorem witness_DecodeCommutesWithEdge :
    ∃ a b, exec (.decode rep3 1000) busyState = .next a ∧ exec (.edge 1000 true) a = .next b := ⟨_, _, rfl, rfl⟩

/-- Seven characters; eight with one that is no digit; eight digits. -/
theorem witness_ParseHexReadsEightDigits :
    "768910E".toList.length ≠ 8 ∧
      ("76891GEF".toList.length = 8 ∧ ∃ c, c ∈ "76891GEF".toList ∧ ∀ v, ¬ HexDigitValue c v) ∧
      ("00000000".toList.length = 8 ∧ ∀ c, c ∈ "00000000".toList → ∃ v, HexDigitValue c v) := by
  refine ⟨by decide, ⟨by decide, 'G', by decide, ?_⟩, by decide, ?_⟩
  · rintro v (⟨h, e⟩ | ⟨h, h', e | e⟩) <;> interval_cases v <;> revert e <;> decide
  · intro c h
    have : c = '0' := by simpa using h
    exact ⟨0, .inl ⟨by decide, this⟩⟩

theorem witness_ParseOfFormatIsTheFrame :
    exec (.formatHex 0x00FF629D) busyState =
      .next { busyState with outputs := busyState.outputs ++ [.hexText "00FF629D".toList] } := by rfl

/-- A text that parses, with what ENCODE answers for it, and one that does not. -/
theorem witness_SendIsParseThenEncode :
    exec (.parseHex "768910EF".toList) State.reset =
        .next { State.reset with outputs := State.reset.outputs ++ [.frameWord exampleFrame] } ∧
      exec (.encode exampleFrame 0) State.reset =
        .next { State.reset with outputs := State.reset.outputs ++ [] ++ [.items encItems] } ∧
      exec (.parseHex "76891".toList) State.reset =
        .next { State.reset with outputs := State.reset.outputs ++ [.encodeError] } :=
  ⟨by rfl, by rfl, by rfl⟩

theorem witness_HexTextSpellsItsFrame : (Instr.hexText "768910ef".toList).WellFormed := by decide

/-- The ends of both ranges and their neighbours. -/
theorem witness_ReceiveSpacesGiveTheirBit :
    (1288 ≤ 1288 ∧ 1288 ≤ 2088) ∧ ¬ (1288 ≤ 2089 ∧ 2089 ≤ 2088) ∧ (162 ≤ 962 ∧ 962 ≤ 962) ∧
      ¬ (162 ≤ 161 ∧ 161 ≤ 962) := by decide

theorem witness_ReceivedLayoutsAreRecognised :
    WithoutLeadIn (20001 :: rx66) rx66 ∧ StandardLayout rx66 exampleFrame ∧
      WithoutLeadIn rep3 rep3 ∧ RepeatLayout rep3 ∧
      WithoutLeadIn [9000, 2250] [9000, 2250] ∧ ¬ RepeatLayout [9000, 2250] ∧
      ∀ f, ¬ StandardLayout [9000, 2250] f :=
  ⟨rx66_withoutLeadIn.2, rx66_layout, rep3_withoutLeadIn.1, rep3_layout,
    .inr ⟨rfl, fun d h => by cases h; decide⟩, two_pulses_no_layout.1, two_pulses_no_layout.2⟩

theorem witness_DecodeOfEncodeIsTheInstruction :
    (Instr.rxOneSpace 31 2088).WellFormed ∧ (Instr.rxRepeatFrame rep3).WellFormed ∧
      (Instr.rxStandardFrame rx66).WellFormed := ⟨by decide, by decide, by rfl⟩

theorem witness_DecodedWordIsItsEncoding : decode (.rxSym 65 2088) = .ok (.rxOneSpace 31 2088) := by decide

theorem witness_UnassignedNumbersAreRefused : 12 ≤ (12 : BitVec 4).toNat := by decide

/-- A polling operation with no POLL in flight, requested by its owner and by the harness. -/
theorem witness_StepRunsTheDecodedInstruction :
    ({ busyState with requests := [.request .polling (.op 4 [])] } : State).requests =
        .request .polling (.op 4 []) :: [] ∧
      decode (.op 4 []) = .ok .takeSnapshot ∧ busyState.go = none ∧ owner .takeSnapshot = some .polling ∧
      Agent.harness = .harness ∧ busyState.playing = [] := by decide

/-- A SEND with nothing to play, and an operation that is no SEND while items are played. -/
theorem witness_StepRunsTheDecodedInstruction_driver :
    decode (.op 11 [.text [], .num 0]) = .ok (.send (.text []) 0) ∧ busyState.playing = [] ∧
      owner (.send (.text []) 0) = some .transmit ∧ ∀ code n, Instr.takeSnapshot ≠ .send code n :=
  ⟨by decide, rfl, rfl, fun _ _ h => nomatch h⟩

/-- A capture operation while a POLL is in flight. -/
theorem witness_StepRunsTheDecodedInstruction_inFlight :
    ({ busyState with go := some 1000, requests := [.request .capture (.op 1 [.num 1000, .num 0])] } : State).requests =
        .request .capture (.op 1 [.num 1000, .num 0]) :: [] ∧
      decode (.op 1 [.num 1000, .num 0]) = .ok (.edge 1000 false) ∧ owner (.edge 1000 false) ≠ some .polling ∧
      owner (.edge 1000 false) = some .capture := by decide

theorem witness_PlacedTableWordRunsNext :
    decodeTableWord 8 0xB = some (.send (.text []) 0) ∧ busyState.playing = [] ∧
      decodeTableWord 8 0x7 = some (.poll 0 0) ∧ owner (.poll 0 0) = some .polling ∧
      decodeTableWord 8 0x1 = some (.edge 0 false) ∧ owner (.edge 0 false) ≠ some .polling := by decide

theorem witness_PollInFlightPrecedesPollingOperations :
    ({ busyState with go := some 1000, requests := [.request .harness (.op 4 [])] } : State).requests =
        .request .harness (.op 4 []) :: [] ∧
      decode (.op 4 []) = .ok .takeSnapshot ∧ ({ busyState with go := some 1000 } : State).go = some 1000 ∧
      owner .takeSnapshot = some .polling ∧
      StampNotEarlier { busyState with go := some 1000, requests := [.request .harness (.op 4 [])] } 1000 :=
  ⟨rfl, by decide, rfl, by decide, busy_admits⟩

/-- Another's operation, one while a POLL is in flight, and a row that is no operation. -/
theorem witness_RequestByTheWrongAgentIsRefused :
    ({ busyState with requests := [.request .capture (.op 0 [.num 1000])] } : State).requests =
        .request .capture (.op 0 [.num 1000]) :: [] ∧
      decode (.op 0 [.num 1000]) = .ok (.reset 1000) ∧ busyState.go = none ∧
      owner (.reset 1000) ≠ some .polling ∧ owner (.reset 1000) ≠ some .capture ∧
      decode (.cause 3) = .ok .causeBufferOverflow ∧ owner .causeBufferOverflow ≠ some .capture ∧
      Agent.capture ≠ .harness ∧ Agent.capture ≠ .dispatch := by decide

/-- The two entry points, and an operation that is neither. -/
theorem witness_DispatchHasExactlyTwoEntryPoints :
    busyState.go = none ∧ busyState.playing = [] ∧ decode (.op 7 [.num 1000, .num 1000]) = .ok (.poll 1000 1000) ∧
      decode (.op 11 [.text [], .num 0]) = .ok (.send (.text []) 0) ∧ decode (.op 4 []) = .ok .takeSnapshot ∧
      (∀ nowA nowB, Instr.takeSnapshot ≠ .poll nowA nowB) ∧ ∀ code n, Instr.takeSnapshot ≠ .send code n :=
  ⟨rfl, rfl, by decide, by decide, by decide, fun _ _ h => (nomatch h), fun _ _ h => (nomatch h)⟩

/-- One item left, also before a text that would fail. -/
theorem witness_SecondSendWaitsForTheDriver :
    decode (.op 11 [.text [], .num 0]) = .ok (.send (.text []) 0) ∧
      ({ busyState with playing := [.gap 40000] } : State).playing ≠ [] := by decide

theorem witness_DriverPlaysItemsInOrder :
    ({ busyState with playing := [.gap 40000], requests := [.itemPlayed] } : State).playing = .gap 40000 :: [] := rfl

end Sys2Proof.Tests
end

section
/-! SUPPORT. The inversion of `exec`: all an instruction can do, one case per way it changes the state, for the proofs about every
instruction to split along; and what every instruction leaves alone (spec/60_exceptions.md R226, spec/70_reset_and_hazards.md
R252). -/

namespace Sys2Proof.Machine

/-- The next state of each instruction that has one: the eight operations that write the state each with its own, the others
with what they report. -/
inductive ExecEffect (s : State) : Instr → State → Prop
  | reset (t0 : Nat) (admitted : StampNotEarlier s t0) :
      ExecEffect s (.reset t0) (((s.setClock t0).withBlock (Block.reset t0)).setGo none)
  | edge (u : Nat) (level : Bool) (admitted : StampNotEarlier s u) :
      ExecEffect s (.edge u level)
        (recordPulse (u - s.block.lastEdgeTime) level ((s.setClock u).withBlock (s.block.stampEdge u)))
  | record (d : Nat) (level : Bool) : ExecEffect s (.record d level) (recordPulse d level s)
  | timeoutCheck (now : Nat) (admitted : StampNotEarlier s now) :
      ExecEffect s (.timeoutCheck now) (checkTimeout now (s.setClock now))
  | takeSnapshot : ExecEffect s .takeSnapshot ((s.withBlock s.block.drain).emit [.snapshot s.block.buf])
  | decode (p : List Nat) (now : Nat) (admitted : StampNotEarlier s now) :
      ExecEffect s (.decode p now) (decodeSequence p now (s.setClock now))
  | poll (nowA nowB : Nat) (ordered : nowA ≤ nowB) (admitted : StampNotEarlier s nowA) :
      ExecEffect s (.poll nowA nowB) (pollPhaseA nowA nowB (s.setClock nowA))
  | send (code : SendCode) (n : Nat) :
      ExecEffect s (.send code n) ((s.emit (sendEvents code n)).setPlaying (s.playing ++ sendItems code n))
  | report (i : Instr) (evs : List Event) (reports : exec i s = report evs s) : ExecEffect s i (s.emit evs)

theorem ExecEffect.of_report {i : Instr} {s t : State} {evs : List Event} (h : exec i s = .next t)
    (reports : exec i s = Machine.report evs s) : ExecEffect s i t := by
  obtain rfl := report_eq_next.1 (reports.symm.trans h)
  exact .report i evs reports

/-- A layout row reports the frame it spells, or that it spells none (R75, R76). -/
theorem execRxStandardFrame_reports (p : List Nat) (s : State) :
    ∃ evs, execRxStandardFrame p s = report evs s := by
  unfold execRxStandardFrame
  cases standardFrame (dropLeadIn p) with
  | ok f => exact ⟨_, rfl⟩
  | error r => exact ⟨_, rfl⟩

theorem execReset_eq_next {t0 : Nat} {s t : State} :
    execReset t0 s = .next t ↔
      StampNotEarlier s t0 ∧ ((s.setClock t0).withBlock (Block.reset t0)).setGo none = t := by
  rw [execReset, atStamp_eq_next]

theorem execEdge_eq_next {u : Nat} {level : Bool} {s t : State} :
    execEdge u level s = .next t ↔ StampNotEarlier s u ∧
      recordPulse (u - s.block.lastEdgeTime) level ((s.setClock u).withBlock (s.block.stampEdge u)) = t := by
  rw [execEdge, atStamp_eq_next, State.setClock_block]

/-- POLL runs only with its two stamps in order and the first of them admitted (R200, R220). -/
theorem execPoll_eq_next {nowA nowB : Nat} {s t : State} :
    execPoll nowA nowB s = .next t ↔
      nowA ≤ nowB ∧ StampNotEarlier s nowA ∧ pollPhaseA nowA nowB (s.setClock nowA) = t := by
  by_cases h : nowA ≤ nowB <;> simp [execPoll, h, atStamp_eq_next]

/-- All an instruction can do. -/
theorem exec_effect {i : Instr} {s t : State} (h : exec i s = .next t) : ExecEffect s i t := by
  cases i with
  | reset t0 => obtain ⟨admitted, rfl⟩ := execReset_eq_next.1 h; exact .reset t0 admitted
  | edge u level => obtain ⟨admitted, rfl⟩ := execEdge_eq_next.1 h; exact .edge u level admitted
  | record d level => cases h; exact .record d level
  | timeoutCheck now => obtain ⟨admitted, rfl⟩ := atStamp_eq_next.1 h; exact .timeoutCheck now admitted
  | takeSnapshot => cases h; exact .takeSnapshot
  | decode p now => obtain ⟨admitted, rfl⟩ := atStamp_eq_next.1 h; exact .decode p now admitted
  | poll nowA nowB =>
    obtain ⟨ordered, admitted, rfl⟩ := execPoll_eq_next.1 h
    exact .poll nowA nowB ordered admitted
  | send code n => cases h; exact .send code n
  | rxStandardFrame p =>
    obtain ⟨evs, reports⟩ := execRxStandardFrame_reports p s
    exact .of_report h reports
  | _ => exact .of_report h rfl

/-! ### Outputs are only added -/

theorem recordPulse_outputs (d : Nat) (level : Bool) (s : State) :
    ∃ l, (recordPulse d level s).outputs = s.outputs ++ l := by
  rcases recordPulse_cases d level s with ⟨_, e⟩ | ⟨_, _, e⟩ | ⟨_, _, e⟩ <;> rw [e] <;> simp

theorem decodeSequence_outputs (p : List Nat) (now : Nat) (s : State) :
    ∃ l, (decodeSequence p now s).outputs = s.outputs ++ l := by
  unfold decodeSequence
  rcases deliver_cases (verdict p s.block.last now) now s with ⟨_, _, e⟩ | ⟨_, e⟩ | ⟨_, _, e⟩ <;>
    rw [e] <;> simp

theorem pollPhaseA_outputs (nowA nowB : Nat) (s : State) :
    ∃ l, (pollPhaseA nowA nowB s).outputs = s.outputs ++ l := by
  rcases pollPhaseA_cases nowA nowB s with ⟨_, e⟩ | ⟨_, _, e⟩ <;> rw [e] <;> simp

theorem ExecEffect.outputs_extend {i : Instr} {s t : State} (h : ExecEffect s i t) :
    ∃ l, t.outputs = s.outputs ++ l := by
  cases h with
  | reset t0 => exact ⟨[], by simp⟩
  | edge u level => exact recordPulse_outputs _ _ _
  | record d level => exact recordPulse_outputs d level s
  | timeoutCheck now => exact ⟨[], by simp [checkTimeout]⟩
  | takeSnapshot => exact ⟨_, rfl⟩
  | decode p now => exact decodeSequence_outputs p now _
  | poll nowA nowB => exact pollPhaseA_outputs nowA nowB _
  | send code n => exact ⟨_, rfl⟩
  | report i evs => exact ⟨evs, rfl⟩

/-! ### What instructions leave alone outside the block -/

theorem checkTimeout_frame (now : Nat) (s : State) :
    (checkTimeout now s).go = s.go ∧ (checkTimeout now s).idleLevel = s.idleLevel ∧
    (checkTimeout now s).clock = s.clock ∧ (checkTimeout now s).playing = s.playing ∧
    (checkTimeout now s).requests = s.requests ∧ (checkTimeout now s).outputs = s.outputs :=
  ⟨rfl, rfl, rfl, rfl, rfl, rfl⟩

/-- What phase A leaves alone: everything but `ready`, `go` and the outputs. -/
theorem pollPhaseA_frame (nowA nowB : Nat) (s : State) :
    (pollPhaseA nowA nowB s).block.buf = s.block.buf ∧
    (pollPhaseA nowA nowB s).block.lastEdgeTime = s.block.lastEdgeTime ∧
    (pollPhaseA nowA nowB s).block.last = s.block.last ∧
    (pollPhaseA nowA nowB s).idleLevel = s.idleLevel ∧
    (pollPhaseA nowA nowB s).clock = s.clock ∧
    (pollPhaseA nowA nowB s).playing = s.playing ∧
    (pollPhaseA nowA nowB s).requests = s.requests := by
  rcases pollPhaseA_cases nowA nowB s with ⟨_, e⟩ | ⟨_, _, e⟩ <;> rw [e] <;> simp

/-- No instruction writes `IDLE_LEVEL` or the turns to come (R252). -/
theorem ExecEffect.keeps_idleLevel_requests {i : Instr} {s t : State} (h : ExecEffect s i t) :
    t.idleLevel = s.idleLevel ∧ t.requests = s.requests := by
  cases h with
  | edge u level => simp [recordPulse_frame]
  | record d level => simp [recordPulse_frame]
  | timeoutCheck now => simp [checkTimeout_frame]
  | decode p now => simp [decodeSequence_frame]
  | poll nowA nowB => simp [pollPhaseA_frame]
  | _ => exact ⟨rfl, rfl⟩

theorem ExecEffect.go_cases {i : Instr} {s t : State} (h : ExecEffect s i t) :
    t.go = s.go ∨ (∃ nowA nowB, i = .poll nowA nowB) ∨ (t.go = none ∧ ∃ t0, i = .reset t0) := by
  cases h with
  | reset t0 => exact .inr (.inr ⟨rfl, t0, rfl⟩)
  | poll nowA nowB => exact .inr (.inl ⟨nowA, nowB, rfl⟩)
  | edge u level => simp [recordPulse_frame]
  | record d level => simp [recordPulse_frame]
  | timeoutCheck now => simp [checkTimeout_frame]
  | decode p now => simp [decodeSequence_frame]
  | _ => exact .inl rfl

theorem ExecEffect.playing_cases {i : Instr} {s t : State} (h : ExecEffect s i t) :
    t.playing = s.playing ∨ ∃ code n, i = .send code n := by
  cases h with
  | send code n => exact .inr ⟨code, n, rfl⟩
  | edge u level => simp [recordPulse_frame]
  | record d level => simp [recordPulse_frame]
  | timeoutCheck now => simp [checkTimeout_frame]
  | decode p now => simp [decodeSequence_frame]
  | poll nowA nowB => simp [pollPhaseA_frame]
  | _ => exact .inl rfl

end Sys2Proof.Machine
end

section
/-! PROOFS. The statements of spec/00_scope.md. -/

namespace Sys2Proof.Machine

/-- Settles O15, by the cases of `ExecEffect`: each field outside the block is written by the instructions named alone. -/
theorem instructionsOnlyAddOutputs : Obligations.InstructionsOnlyAddOutputs := by
  intro i s t h
  have effect := exec_effect h
  obtain ⟨idle, requests⟩ := effect.keeps_idleLevel_requests
  exact ⟨effect.outputs_extend, idle, requests, effect.go_cases.resolve_left, effect.playing_cases.resolve_left⟩

/-- Settles O45: each result row is a `report` of its one reply. -/
theorem resultRowsReplyTheirResult : Obligations.ResultRowsReplyTheirResult := fun _ _ =>
  ⟨report_eq_next.2 rfl, report_eq_next.2 rfl, report_eq_next.2 rfl⟩

end Sys2Proof.Machine
end

section
/-! SUPPORT. Which instruction writes which element of the block, and to what (spec/10_state.md R22, R35 (I-3), R36). -/

namespace Sys2Proof.Machine

theorem recordPulse_ready_cases (d : Nat) (level : Bool) (s : State) :
    (recordPulse d level s).block.ready = s.block.ready ∨ (recordPulse d level s).block.ready = true := by
  rcases recordPulse_cases d level s with ⟨_, e⟩ | ⟨_, _, e⟩ | ⟨_, _, e⟩ <;> rw [e]
  · exact .inl rfl
  · exact .inl rfl
  · rw [State.emit_block, State.withBlock_block, Block.store_ready]
    cases readyOnStore s.idleLevel level d (s.block.buf.length + 1) <;> simp

theorem checkTimeout_ready_cases (now : Nat) (s : State) :
    (checkTimeout now s).block.ready = s.block.ready ∨ (checkTimeout now s).block.ready = true := by
  rw [checkTimeout, State.withBlock_block, Block.raiseReady_ready]
  cases timeoutFires now s.block.lastEdgeTime s.block.len <;> simp

/-- Phase A of a POLL writes the block as TIMEOUT_CHECK does (R200). -/
theorem pollPhaseA_block (nowA nowB : Nat) (s : State) :
    (pollPhaseA nowA nowB s).block = (checkTimeout nowA s).block := by
  rcases pollPhaseA_cases nowA nowB s with ⟨_, e⟩ | ⟨_, _, e⟩ <;> rw [e] <;> rfl

theorem ExecEffect.buf_cases {i : Instr} {s t : State} (h : ExecEffect s i t) :
    t.block.buf = s.block.buf ∨ (∃ t0, i = .reset t0) ∨ (∃ u level, i = .edge u level) ∨
      (∃ d level, i = .record d level) ∨ i = .takeSnapshot := by
  cases h with
  | reset t0 => exact .inr (.inl ⟨t0, rfl⟩)
  | edge u level => exact .inr (.inr (.inl ⟨u, level, rfl⟩))
  | record d level => exact .inr (.inr (.inr (.inl ⟨d, level, rfl⟩)))
  | takeSnapshot => exact .inr (.inr (.inr (.inr rfl)))
  | decode p now => simp [decodeSequence_frame]
  | poll nowA nowB => simp [pollPhaseA_frame]
  | _ => exact .inl rfl

/-- `ready` is kept, or raised by the capture path or a time-out check, or cleared by TAKE_SNAPSHOT or RESET (R22, R36). -/
theorem ExecEffect.ready_cases {i : Instr} {s t : State} (h : ExecEffect s i t) :
    t.block.ready = s.block.ready ∨
    (t.block.ready = true ∧ ((∃ u level, i = .edge u level) ∨ (∃ d level, i = .record d level) ∨
      (∃ now, i = .timeoutCheck now) ∨ ∃ nowA nowB, i = .poll nowA nowB)) ∨
    (t.block.ready = false ∧ (i = .takeSnapshot ∨ ∃ t0, i = .reset t0)) := by
  cases h with
  | reset t0 => exact .inr (.inr ⟨rfl, .inr ⟨t0, rfl⟩⟩)
  | takeSnapshot => exact .inr (.inr ⟨rfl, .inl rfl⟩)
  | edge u level =>
    exact (recordPulse_ready_cases _ level _).imp_right fun raised => .inl ⟨raised, .inl ⟨u, level, rfl⟩⟩
  | record d level =>
    exact (recordPulse_ready_cases d level s).imp_right fun raised => .inl ⟨raised, .inr (.inl ⟨d, level, rfl⟩)⟩
  | timeoutCheck now =>
    exact (checkTimeout_ready_cases now _).imp_right fun raised =>
      .inl ⟨raised, .inr (.inr (.inl ⟨now, rfl⟩))⟩
  | poll nowA nowB =>
    rw [pollPhaseA_block]
    exact (checkTimeout_ready_cases nowA _).imp_right fun raised =>
      .inl ⟨raised, .inr (.inr (.inr ⟨nowA, nowB, rfl⟩))⟩
  | decode p now => simp [decodeSequence_frame]
  | _ => exact .inl rfl

theorem ExecEffect.lastEdgeTime_cases {i : Instr} {s t : State} (h : ExecEffect s i t) :
    t.block.lastEdgeTime = s.block.lastEdgeTime ∨ (∃ t0, i = .reset t0) ∨ ∃ u level, i = .edge u level := by
  cases h with
  | reset t0 => exact .inr (.inl ⟨t0, rfl⟩)
  | edge u level => exact .inr (.inr ⟨u, level, rfl⟩)
  | record d level => simp [recordPulse_frame]
  | decode p now => simp [decodeSequence_frame]
  | poll nowA nowB => simp [pollPhaseA_frame]
  | _ => exact .inl rfl

/-- The repeat state is kept, or set by DECODE to a `Command`, or forgotten by RESET (R35 (I-3), R36). -/
theorem ExecEffect.last_cases {i : Instr} {s t : State} (h : ExecEffect s i t) :
    t.block.last = s.block.last ∨ (t.block.last.isSome = true ∧ ∃ p now, i = .decode p now) ∨
      ∃ t0, i = .reset t0 := by
  cases h with
  | reset t0 => exact .inr (.inr ⟨t0, rfl⟩)
  | decode p now =>
    rcases decodeSequence_last p now (s.setClock now) with kept | ⟨f, set⟩
    · exact .inl kept
    · exact .inr (.inl ⟨by rw [set]; rfl, p, now, rfl⟩)
  | edge u level => simp [recordPulse_frame]
  | record d level => simp [recordPulse_frame]
  | poll nowA nowB => simp [pollPhaseA_frame]
  | _ => exact .inl rfl

end Sys2Proof.Machine
end

section
/-! SUPPORT. The invariants of R35 through every operation: the buffer's canonical form, and no stamp of the block later than the
clock (spec/10_state.md R35 (I-1), (I-2), (I-4)). -/

namespace Sys2Proof.Machine

theorem State.reset_inv : State.Inv State.reset where
  bufWf := State.reset_wf
  edgeNotLater := le_refl 0
  commandNotLater _ hl := nomatch hl

/-- The invariants speak of the buffer, the two stamps of the block and the clock alone. -/
theorem State.Inv.of_eq {s t : State} (h : s.Inv) (hbuf : t.block.buf = s.block.buf)
    (hedge : t.block.lastEdgeTime = s.block.lastEdgeTime) (hlast : t.block.last = s.block.last)
    (hclock : t.clock = s.clock) : t.Inv where
  bufWf := hbuf ▸ h.bufWf
  edgeNotLater := by rw [hedge, hclock]; exact h.edgeNotLater
  commandNotLater := by rw [hlast, hclock]; exact h.commandNotLater

/-- An admitted stamp moves the clock on, past no stamp of the block. -/
theorem State.Inv.setClock {s : State} {t : Nat} (h : s.Inv) (admitted : StampNotEarlier s t) :
    (s.setClock t).Inv :=
  have ⟨_, edge, command⟩ := admitted
  ⟨h.bufWf, edge, command⟩

theorem State.Inv.stampEdge {s : State} {t : Nat} (h : s.Inv) (ht : t ≤ s.clock) :
    (s.withBlock (s.block.stampEdge t)).Inv where
  bufWf := h.bufWf
  edgeNotLater := ht
  commandNotLater := h.commandNotLater

theorem State.Inv.drain {s : State} (h : s.Inv) : (s.withBlock s.block.drain).Inv where
  bufWf := s.block.drain_wf
  edgeNotLater := h.edgeNotLater
  commandNotLater := h.commandNotLater

theorem recordPulse_inv (d : Nat) (level : Bool) {s : State} (h : s.Inv) : (recordPulse d level s).Inv := by
  obtain ⟨edge, last, _, _, clock, _⟩ := recordPulse_frame d level s
  exact {
    bufWf := recordPulse_wf h.bufWf
    edgeNotLater := by rw [edge, clock]; exact h.edgeNotLater
    commandNotLater := by rw [last, clock]; exact h.commandNotLater }

theorem checkTimeout_inv (now : Nat) {s : State} (h : s.Inv) : (checkTimeout now s).Inv :=
  h.of_eq rfl rfl rfl rfl

theorem pollPhaseA_inv (nowA nowB : Nat) {s : State} (h : s.Inv) : (pollPhaseA nowA nowB s).Inv := by
  obtain ⟨buf, edge, last, _, clock, _⟩ := pollPhaseA_frame nowA nowB s
  exact h.of_eq buf edge last clock

/-- DECODE writes no stamp but its own, which the clock has reached. -/
theorem decodeSequence_inv (p : List Nat) {now : Nat} {s : State} (h : s.Inv) (hnow : now ≤ s.clock) :
    (decodeSequence p now s).Inv := by
  obtain ⟨buf, _, edge, _, _, clock, _⟩ := decodeSequence_frame p now s
  refine ⟨by rw [buf]; exact h.bufWf, by rw [edge, clock]; exact h.edgeNotLater, fun l hl => ?_⟩
  rw [clock]
  rcases decodeSequence_last p now s with kept | ⟨f, set⟩
  · exact h.commandNotLater l (kept ▸ hl)
  · obtain rfl := Option.some.inj (set.symm.trans hl)
    exact hnow

theorem pollDecode_inv {nowB : Nat} {s : State} (h : s.Inv) (hnow : nowB ≤ s.clock) : (pollDecode nowB s).Inv :=
  decodeSequence_inv s.block.buf (h.drain.of_eq rfl rfl rfl rfl) hnow

theorem pollPhaseB_inv {s t : State} (h : s.Inv) (ht : pollPhaseB s = .next t) : t.Inv := by
  cases hg : s.go with
  | none =>
    obtain rfl : s = t := by simpa [pollPhaseB_of_none hg] using ht
    exact h
  | some nowB =>
    rw [pollPhaseB_of_go hg, atStamp_eq_next] at ht
    obtain ⟨admitted, rfl⟩ := ht
    exact pollDecode_inv (h.setClock admitted) (le_refl nowB)

/-- Every instruction keeps the invariants. -/
theorem ExecEffect.inv {i : Instr} {s t : State} (effect : ExecEffect s i t) (h : s.Inv) : t.Inv := by
  cases effect with
  | reset t0 => exact ⟨Block.reset_wf t0, le_refl t0, fun _ hl => nomatch hl⟩
  | edge u level admitted => exact recordPulse_inv _ level ((h.setClock admitted).stampEdge (le_refl u))
  | record d level => exact recordPulse_inv d level h
  | timeoutCheck now admitted => exact checkTimeout_inv now (h.setClock admitted)
  | takeSnapshot => exact h.drain.of_eq rfl rfl rfl rfl
  | decode p now admitted => exact decodeSequence_inv p (h.setClock admitted) (le_refl now)
  | poll nowA nowB _ admitted => exact pollPhaseA_inv nowA nowB (h.setClock admitted)
  | send code n => exact h.of_eq rfl rfl rfl rfl
  | report i evs => exact h.of_eq rfl rfl rfl rfl

end Sys2Proof.Machine
end

section
/-! PROOFS. The statements of spec/10_state.md. -/

namespace Sys2Proof.Machine

/-- Settles O4, by the cases of a step: a turn that runs no operation leaves block and clock alone, phase B and every
instruction keep the invariants. -/
theorem stepKeepsInvariant : Obligations.StepKeepsInvariant := by
  intro s t h ht
  have inv_setRequests (rest : List Turn) : (s.setRequests rest).Inv := h.of_eq rfl rfl rfl rfl
  rcases step_cases s with ⟨e, _⟩ | ⟨rest, _, _, e⟩ | ⟨rest, _, e⟩ | ⟨_, e | ⟨rest, _, e⟩⟩ |
    ⟨_, _, i, rest, _, _, _, _, e⟩ | ⟨_, e⟩ <;> rw [e] at ht
  · cases ht
    exact h
  · cases ht
    exact inv_setRequests rest
  · cases ht
    exact h.of_eq rfl rfl rfl rfl
  · exact pollPhaseB_inv h ht
  · exact pollPhaseB_inv (inv_setRequests rest) ht
  · exact (exec_effect ht).inv (inv_setRequests rest)
  · cases ht

/-- Settles O12: of the cases of `ready`, only the clearing by TAKE_SNAPSHOT or RESET takes it from 1 to 0. -/
theorem readyIsStickyUntilSnapshotOrReset : Obligations.ReadyIsStickyUntilSnapshotOrReset := by
  intro i s t h set clear
  rcases (exec_effect h).ready_cases with kept | ⟨raised, _⟩ | ⟨_, writer⟩
  · rw [kept, set] at clear
    cases clear
  · rw [raised] at clear
    cases clear
  · exact writer

/-- Settles O14: one lemma per element says who may have written it. -/
theorem onlyItsWritersWriteAnElement : Obligations.OnlyItsWritersWriteAnElement := by
  intro i s t h
  have effect := exec_effect h
  refine ⟨effect.buf_cases.resolve_left, fun changed => ?_, effect.lastEdgeTime_cases.resolve_left,
    fun changed => ?_⟩
  · rcases effect.ready_cases.resolve_left changed with ⟨_, edge | record | check | poll⟩ | ⟨_, snapshot | reset⟩
    · exact .inr (.inl edge)
    · exact .inr (.inr (.inl record))
    · exact .inr (.inr (.inr (.inl check)))
    · exact .inr (.inr (.inr (.inr (.inr poll))))
    · exact .inr (.inr (.inr (.inr (.inl snapshot))))
    · exact .inl reset
  · rcases effect.last_cases.resolve_left changed with ⟨_, decode⟩ | reset
    · exact .inr decode
    · exact .inl reset

/-- Settles O25: DECODE, the one writer of the repeat state beside RESET, sets it to a `Command`. -/
theorem repeatStateIsForgottenOnlyByReset : Obligations.RepeatStateIsForgottenOnlyByReset := by
  intro i s t h held
  rcases (exec_effect h).last_cases with kept | ⟨set, _⟩ | reset
  · exact .inl (kept ▸ held)
  · exact .inl set
  · exact .inr reset

/-- Settles O1: with the stamp admitted, RESET answers the state it builds. -/
theorem resetLeavesTheResetValues : Obligations.ResetLeavesTheResetValues := fun _ _ admitted =>
  execReset_eq_next.2 ⟨admitted, rfl⟩

/-- Settles O3: the empty buffer is canonical, and the one stamp of the block is the clock's. -/
theorem resetStateMeetsInvariant : Obligations.ResetStateMeetsInvariant := State.reset_inv

end Sys2Proof.Machine
end

section
/-! SUPPORT. What becomes of the pulse buffer, and what the next turn does with a decoded request: who comes first, who may
request it, and what is taken away before a placed word (spec/20_memory.md R50, R60, spec/43_poll_and_host.md R203, R205). -/

namespace Sys2Proof.Machine

/-! ### The pulse buffer -/

/-- RECORD leaves the buffer, stores one pulse that is no noise, or throws a full buffer away (R102, R104). -/
theorem recordPulse_buf_cases (d : Nat) (level : Bool) (s : State) :
    (recordPulse d level s).block.buf = s.block.buf ∨
    (∃ x, 100 ≤ x ∧ (recordPulse d level s).block.buf = s.block.buf ++ [x]) ∨
    ((recordPulse d level s).block.buf = [] ∧ s.block.buf.length = 100) := by
  rcases recordPulse_cases d level s with ⟨_, e⟩ | ⟨_, full, e⟩ | ⟨long, _, e⟩ <;> rw [e]
  · exact .inl rfl
  · exact .inr (.inr ⟨rfl, full⟩)
  · exact .inr (.inl ⟨d, long, rfl⟩)

/-! ### The turn of a request -/

theorem pollComesFirst_eq_true {s : State} {i : Instr} :
    pollComesFirst s i = true ↔ s.go.isSome = true ∧ owner i = some .polling := by
  simp [pollComesFirst]

theorem pollComesFirst_eq_false {s : State} {i : Instr} :
    pollComesFirst s i = false ↔ s.go = none ∨ owner i ≠ some .polling := by
  rw [← Bool.not_eq_true, pollComesFirst_eq_true, not_and_or, Option.not_isSome_iff_eq_none]

theorem sendOverlaps_eq_false {s : State} {i : Instr} :
    sendOverlaps s i = false ↔ (∀ code n, i ≠ .send code n) ∨ s.playing = [] := by
  rw [← Bool.not_eq_true, sendOverlaps_iff, not_and_or, not_not]
  simp only [not_exists, ne_eq]

/-- The harness may request everything, an owner what it owns (R203, R231). -/
theorem mayRequest_of_harness_or_owner {a : Agent} {i : Instr} (h : a = .harness ∨ owner i = some a) :
    mayRequest a i = true := by
  rcases h with rfl | owned
  · rfl
  · simp [mayRequest, owned]

theorem nextTurn_request {s : State} {a : Agent} {w : CodeWord} {i : Instr} {rest : List Turn}
    (next : s.requests = .request a w :: rest) (decoded : decode w = .ok i) :
    nextTurn s = requestTurn a i rest s := by
  simp only [nextTurn, next, decoded]

/-- A request that nothing holds back runs, with its turn taken off. -/
theorem step_request_run {s : State} {a : Agent} {w : CodeWord} {i : Instr} {rest : List Turn}
    (next : s.requests = .request a w :: rest) (decoded : decode w = .ok i) (first : pollComesFirst s i = false)
    (allowed : mayRequest a i = true) (free : sendOverlaps s i = false) :
    step s = exec i (s.setRequests rest) := by
  rw [step, nextTurn_request next decoded, requestTurn_run first allowed free]

/-- A request of the polling path waits for the POLL in flight, whoever makes it (R60; log entry 10). -/
theorem step_request_phaseB {s : State} {a : Agent} {w : CodeWord} {i : Instr} {rest : List Turn}
    (next : s.requests = .request a w :: rest) (decoded : decode w = .ok i) (waits : pollComesFirst s i = true) :
    step s = pollPhaseB s := by
  rw [step, nextTurn_request next decoded, requestTurn, if_pos waits]

/-! ### Phase B -/

theorem pollPhaseB_of_notEarlier {s : State} {nowB : Nat} (inFlight : s.go = some nowB)
    (admitted : StampNotEarlier s nowB) : pollPhaseB s = .next (pollDecode nowB (s.setClock nowB)) := by
  rw [pollPhaseB_of_go inFlight, atStamp_of_notEarlier admitted]

/-- Phase B is DECODE of the whole buffer on the drained state, whose stamps are the old ones (R200). -/
theorem exec_decode_drained {s : State} {nowB : Nat} (admitted : StampNotEarlier s nowB) :
    exec (.decode s.block.buf nowB) ((s.withBlock s.block.drain).setGo none) =
      .next (pollDecode nowB (s.setClock nowB)) :=
  have drained : StampNotEarlier ((s.withBlock s.block.drain).setGo none) nowB := admitted
  atStamp_of_notEarlier drained (decodeSequence s.block.buf nowB)

/-- Phase B leaves the turns to come. -/
theorem pollDecode_requests (nowB : Nat) (s : State) : (pollDecode nowB s).requests = s.requests := by
  simp [pollDecode, decodeSequence_frame]

/-! ### A placed word -/

theorem clearWay_of_free {s : State} {i : Instr} (first : pollComesFirst s i = false)
    (free : sendOverlaps s i = false) : clearWay s i = s := by
  simp [clearWay, first, free]

theorem clearWay_of_polling (s : State) {i : Instr} (polling : owner i = some .polling) :
    clearWay s i = s.setGo none := by
  cases inFlight : s.go with
  | some nowB => rw [clearWay, if_pos (pollComesFirst_eq_true.2 ⟨Option.isSome_of_eq_some inFlight, polling⟩)]
  | none =>
    have noSend : ∀ code n, i ≠ .send code n := by
      rintro code n rfl
      cases polling
    rw [clearWay_of_free (pollComesFirst_eq_false.2 (.inl inFlight)) (sendOverlaps_eq_false.2 (.inl noSend)),
      State.setGo, ← inFlight]

theorem clearWay_of_send (s : State) (code : SendCode) (n : Nat) :
    clearWay s (.send code n) = s.setPlaying [] := by
  have first : pollComesFirst s (.send code n) = false := pollComesFirst_eq_false.2 (.inr nofun)
  cases free : sendOverlaps s (.send code n) with
  | true => simp [clearWay, first, free]
  | false =>
    have silent : s.playing = [] := (sendOverlaps_eq_false.1 free).resolve_left fun h => h code n rfl
    rw [clearWay_of_free first free, State.setPlaying, ← silent]

theorem placeWord_of_decode {s : State} {w : CodeWord} {i : Instr} (decoded : decode w = .ok i) :
    placeWord s w = (clearWay s i).setRequests (.request .harness w :: s.requests) := by
  simp only [placeWord, decoded]

/-- A placed word runs next, on the state with its way cleared and the turns as they were (log entry 16). -/
theorem step_placeWord {s : State} {w : CodeWord} {i : Instr} (decoded : decode w = .ok i) :
    step (placeWord s w) = exec i (clearWay s i) := by
  obtain ⟨first, free⟩ := clearWay_clears s i
  rw [placeWord_of_decode decoded,
    step_request_run (s := (clearWay s i).setRequests _) rfl decoded first rfl free, clearWay_setRequests]

theorem decodeTableWord_eq_some {nbits w : Nat} {i : Instr} :
    decodeTableWord nbits w = some i ↔ decode (tableCodeWord nbits w) = .ok i := by
  unfold decodeTableWord
  cases decode (tableCodeWord nbits w) <;> simp

end Sys2Proof.Machine
end

section
/-! PROOFS. The statements of spec/20_memory.md. -/

namespace Sys2Proof.Machine

/-- Settles O13: RESET and TAKE_SNAPSHOT empty the buffer, RECORD alone and inside EDGE does what `recordPulse_buf_cases`
says, and nothing else writes it. -/
theorem pulsesLeaveOnlyAllTogether : Obligations.PulsesLeaveOnlyAllTogether := by
  intro i s t h
  cases exec_effect h with
  | reset t0 => exact .inr (.inr ⟨rfl, .inr (.inl ⟨t0, rfl⟩)⟩)
  | edge u level =>
    exact (recordPulse_buf_cases _ level _).imp_right <| Or.imp_right fun ⟨emptied, full⟩ =>
      ⟨emptied, .inr (.inr ⟨full, .inr ⟨u, level, rfl⟩⟩)⟩
  | record d level =>
    exact (recordPulse_buf_cases d level s).imp_right <| Or.imp_right fun ⟨emptied, full⟩ =>
      ⟨emptied, .inr (.inr ⟨full, .inl ⟨d, level, rfl⟩⟩)⟩
  | takeSnapshot => exact .inr (.inr ⟨rfl, .inl ⟨rfl, rfl⟩⟩)
  | decode p now => exact .inl (decodeSequence_frame p now _).1
  | poll nowA nowB => exact .inl (pollPhaseA_frame nowA nowB _).1
  | _ => exact .inl rfl

/-- Settles O53: the request waits, so the step is phase B, which is DECODE on the drained state and takes no
turn off. -/
theorem pollInFlightPrecedesPollingOperations : Obligations.PollInFlightPrecedesPollingOperations := by
  intro s a w i rest nowB next decoded inFlight polling admitted
  have waits : pollComesFirst s i = true := pollComesFirst_eq_true.2 ⟨Option.isSome_of_eq_some inFlight, polling⟩
  exact ⟨pollDecode nowB (s.setClock nowB),
    (step_request_phaseB next decoded waits).trans (pollPhaseB_of_notEarlier inFlight admitted),
    exec_decode_drained admitted, pollDecode_requests nowB _⟩

/-- Settles O51: each condition of the statement removes one thing that could hold the request back. -/
theorem stepRunsTheDecodedInstruction : Obligations.StepRunsTheDecodedInstruction := by
  intro s a w i rest next decoded first free allowed
  exact step_request_run next decoded (pollComesFirst_eq_false.2 first) (mayRequest_of_harness_or_owner allowed)
    (sendOverlaps_eq_false.2 free)

/-- Settles O52: a placed word runs on the state `clearWay` leaves, which in each clause is the one stated. -/
theorem placedTableWordRunsNext : Obligations.PlacedTableWordRunsNext := by
  intro s nbits w i read
  rw [State.withFetchWord, step_placeWord (decodeTableWord_eq_some.1 read)]
  refine ⟨fun first free => ?_, fun polling => ?_, ?_⟩
  · rw [clearWay_of_free (pollComesFirst_eq_false.2 first) (sendOverlaps_eq_false.2 free)]
  · rw [clearWay_of_polling s polling, State.setGo]
  · rintro ⟨code, n, rfl⟩
    rw [clearWay_of_send, State.setPlaying]

end Sys2Proof.Machine
end

section
/-! SUPPORT. The words of the encodings: the ranges of the receive symbols and layouts, and for every format that its decoder
reads what the encoder writes and nothing else (spec/30_encoding.md R70 to R83). -/

namespace Sys2Proof.Machine

/-! ### Receive symbols -/

/-- The tolerance test by the two ends of its range (R74). -/
theorem matchUs_eq_decide {d e lo hi : Nat} (low : lo + 400 = e) (high : e + 400 = hi) :
    matchUs d e = decide (lo ≤ d ∧ d ≤ hi) := by
  rw [Bool.eq_iff_iff, matchUs_iff, decide_eq_true_iff]
  omega

@[simp] theorem spellsSymbol_leadIn (d : Nat) : spellsSymbol .leadIn d = decide (20000 < d) := rfl

@[simp] theorem spellsSymbol_hdrMark (d : Nat) : spellsSymbol .hdrMark d = decide (8600 ≤ d ∧ d ≤ 9400) :=
  matchUs_eq_decide rfl rfl

@[simp] theorem spellsSymbol_hdrSpace (d : Nat) : spellsSymbol .hdrSpace d = decide (4100 ≤ d ∧ d ≤ 4900) :=
  matchUs_eq_decide rfl rfl

@[simp] theorem spellsSymbol_rptSpace (d : Nat) : spellsSymbol .rptSpace d = decide (1850 ≤ d ∧ d ≤ 2650) :=
  matchUs_eq_decide rfl rfl

@[simp] theorem spellsSymbol_bitMark (d : Nat) : spellsSymbol .bitMark d = decide (162 ≤ d ∧ d ≤ 962) :=
  matchUs_eq_decide rfl rfl

@[simp] theorem spellsSymbol_oneSpace (d : Nat) : spellsSymbol .oneSpace d = decide (1288 ≤ d ∧ d ≤ 2088) :=
  matchUs_eq_decide rfl rfl

@[simp] theorem spellsSymbol_zeroSpace (d : Nat) : spellsSymbol .zeroSpace d = decide (162 ≤ d ∧ d ≤ 962) :=
  matchUs_eq_decide rfl rfl

theorem bitOfSpace_eq_true_iff_spells (d : Nat) : bitOfSpace d = some true ↔ spellsSymbol .oneSpace d = true := by
  simp [bitOfSpace_eq_true]

theorem bitOfSpace_eq_false_iff_spells (d : Nat) : bitOfSpace d = some false ↔ spellsSymbol .zeroSpace d = true := by
  simp [bitOfSpace_eq_false]

theorem spaceEvents_of_spelled {sym : RxSymbol} {d : Nat} (value : Bool) (i : Nat)
    (spelled : spellsSymbol sym d = true) : spaceEvents sym value i d = [.symbol sym true, .lineBit i value] := by
  rw [spaceEvents, symbolEvents, if_pos spelled, spelled]
  rfl

theorem spaceEvents_of_not_spelled {sym : RxSymbol} {d : Nat} (value : Bool) (i : Nat)
    (notSpelled : spellsSymbol sym d = false) : spaceEvents sym value i d = [.symbol sym false] := by
  rw [spaceEvents, symbolEvents, notSpelled]
  rfl

/-! ### Layouts and hex text -/

theorem isRepeatFrame_iff {raw p : List Nat} (stripped : WithoutLeadIn raw p) :
    isRepeatFrame raw = true ↔ RepeatLayout p := by
  rw [isRepeatFrame, (withoutLeadIn_iff raw p).1 stripped, isRepeatShaped_iff]

theorem isStandardFrame_iff {raw p : List Nat} (stripped : WithoutLeadIn raw p) :
    isStandardFrame raw = true ↔ ∃ f, StandardLayout p f := by
  simp only [isStandardFrame, (withoutLeadIn_iff raw p).1 stripped, ← standardFrame_eq_ok]
  cases standardFrame p <;> simp

/-- No sequence has both layouts (R77). -/
theorem isRepeatFrame_of_isStandardFrame {raw : List Nat} (standard : isStandardFrame raw = true) :
    isRepeatFrame raw = false := by
  have stripped := (withoutLeadIn_iff raw _).2 rfl
  obtain ⟨f, layout⟩ := (isStandardFrame_iff stripped).1 standard
  exact Bool.eq_false_iff.2 (mt (isRepeatFrame_iff stripped).1 layout.not_repeat)

theorem execRxStandardFrame_of_layout {raw p : List Nat} {f : Frame} (stripped : WithoutLeadIn raw p)
    (layout : StandardLayout p f) (s : State) : execRxStandardFrame raw s = report [.frameWord f] s := by
  rw [execRxStandardFrame, (withoutLeadIn_iff raw p).1 stripped, (standardFrame_eq_ok p f).2 layout]

theorem execRxStandardFrame_of_no_layout {raw p : List Nat} (stripped : WithoutLeadIn raw p)
    (noFrame : ∀ f, ¬ StandardLayout p f) (s : State) : execRxStandardFrame raw s = report [.noLayout] s := by
  rw [execRxStandardFrame, (withoutLeadIn_iff raw p).1 stripped]
  cases answer : standardFrame p with
  | ok f => exact absurd ((standardFrame_eq_ok p f).1 answer) (noFrame f)
  | error r => rfl

theorem execRxRepeatFrame_of_layout {raw p : List Nat} (stripped : WithoutLeadIn raw p) (layout : RepeatLayout p)
    (s : State) : execRxRepeatFrame raw s = report [.repeatLayout] s := by
  rw [execRxRepeatFrame, if_pos ((isRepeatFrame_iff stripped).2 layout)]

theorem execRxRepeatFrame_of_no_layout {raw p : List Nat} (stripped : WithoutLeadIn raw p)
    (noRepeat : ¬ RepeatLayout p) (s : State) : execRxRepeatFrame raw s = report [.noLayout] s := by
  rw [execRxRepeatFrame, if_neg (mt (isRepeatFrame_iff stripped).1 noRepeat)]

theorem isHexText_iff (text : List Char) : isHexText text = true ↔ ∃ f, parseText text = .ok f := by
  unfold isHexText
  cases parseText text <;> simp

/-! ### The loops of ENCODE -/

theorem bitItems_eq (b : Bool) : bitItems b = [.mark 560, .space (if b then 1690 else 560)] := by
  cases b <;> rfl

/-- Step 2 of ENCODE as a list over the line positions (R173). -/
theorem bitsItems_eq_flatMap (f : Frame) (left i : Nat) :
    bitsItems f left i = (List.range' i left).flatMap fun k => bitItems (lineBit f k) := by
  induction left generalizing i with
  | zero => rfl
  | succ left ih => rw [bitsItems, ih, List.range'_succ, List.flatMap_cons]

/-- Step 5 of ENCODE as `n` equal lists (R173, R175). -/
theorem repeatItems_eq_flatten (n : Nat) :
    repeatItems n = (List.replicate n (waitItems ++ repeatFrameItems ++ waitItems)).flatten := by
  induction n with
  | zero => rfl
  | succ n ih => rw [repeatItems, ih, List.replicate_succ, List.flatten_cons]

/-! ### Operands -/

@[simp] theorem levelOf_levelNum (level : Bool) : levelOf (levelNum level) = some level := by
  cases level <;> rfl

theorem levelNum_of_levelOf {n : Nat} {level : Bool} (read : levelOf n = some level) : levelNum level = n := by
  match n with
  | 0 | 1 => cases read; rfl
  | _ + 2 => cases read

@[simp] theorem frameOf_toNat (f : Frame) : frameOf f.toNat = some f := by
  simp [frameOf, f.isLt]

theorem toNat_of_frameOf {n : Nat} {f : Frame} (read : frameOf n = some f) : f.toNat = n := by
  obtain ⟨fits, same⟩ := Option.ite_none_right_eq_some.1 read
  rw [← Option.some.inj same, BitVec.toNat_ofNat, Nat.mod_eq_of_lt fits]

theorem decodeOp_of_ge {number : Nat} (unassigned : 12 ≤ number) (operands : List Operand) :
    decodeOp number operands = .error .unassignedOperation := by
  obtain ⟨k, rfl⟩ := Nat.exists_eq_add_of_le' unassigned
  rfl

/-! ### Each decoder reads the word the encoder writes -/

/-- A header mark is too short for the lead-in (R132). -/
theorem decodeRxSym_hdrMark {d : Nat} (spelled : spellsSymbol .hdrMark d = true) :
    decodeRxSym 0 d = .ok (.rxHdrMark d) := by
  have noLeadIn : spellsSymbol .leadIn d = false := by
    simp only [spellsSymbol_hdrMark, spellsSymbol_leadIn, decide_eq_true_eq, decide_eq_false_iff_not] at spelled ⊢
    omega
  simp only [decodeRxSym, noLeadIn, spelled, if_true, Bool.false_eq_true, if_false]

/-- The two spaces of position 1 have disjoint ranges (R77). -/
theorem decodeRxSym_rptSpace {d : Nat} (spelled : spellsSymbol .rptSpace d = true) :
    decodeRxSym 1 d = .ok (.rxRptSpace d) := by
  have noHdrSpace : spellsSymbol .hdrSpace d = false := by
    simp only [spellsSymbol_rptSpace, spellsSymbol_hdrSpace, decide_eq_true_eq, decide_eq_false_iff_not] at spelled ⊢
    omega
  simp only [decodeRxSym, noHdrSpace, spelled, if_true, Bool.false_eq_true, if_false, one_ne_zero]

theorem decodeRxSym_of_ge {position : Nat} (afterHeader : 2 ≤ position) (d : Nat) :
    decodeRxSym position d = decodeBitSymbol position d := by
  rw [decodeRxSym, if_neg (by omega), if_neg (by omega)]

theorem decodeRxSym_markPos (k : Fin 32) {d : Nat} (spelled : spellsSymbol .bitMark d = true) :
    decodeRxSym (markPos k) d = .ok (.rxBitMark k d) := by
  have index : (markPos k - 2) / 2 = k := by rw [markPos]; omega
  have even : markPos k % 2 = 0 := by rw [markPos]; omega
  rw [decodeRxSym_of_ge (by rw [markPos]; omega)]
  simp only [decodeBitSymbol, index, k.isLt, even, spelled, dif_pos, if_true]

theorem decodeRxSym_spacePos (k : Fin 32) {d : Nat} {bit : Bool} (spelled : bitOfSpace d = some bit) :
    decodeRxSym (spacePos k) d = .ok (if bit then .rxOneSpace k d else .rxZeroSpace k d) := by
  have index : (spacePos k - 2) / 2 = k := by rw [spacePos]; omega
  have odd : spacePos k % 2 ≠ 0 := by rw [spacePos]; omega
  rw [decodeRxSym_of_ge (by rw [spacePos]; omega)]
  cases bit <;> simp [decodeBitSymbol, index, odd, spelled]

theorem decodeRxFrame_of_standard {p : List Nat} (standard : isStandardFrame p = true) :
    decodeRxFrame p = .ok (.rxStandardFrame p) := by
  rw [decodeRxFrame, isRepeatFrame_of_isStandardFrame standard, if_neg Bool.false_ne_true, if_pos standard]

/-- The spaces of an output give back its frame, its length the repeat count (R176, R177). -/
theorem decodeTxFrame_encodeItems (f : Frame) (n : Nat) :
    decodeTxFrame (encodeItems f n) = .ok (.txOutput f n) := by
  have count : (69 + 6 * n - 69) / 6 = n := by omega
  simp only [decodeTxFrame, length_encodeItems, count, frameOfItems_encodeItems, if_true]

/-! ### Each decoder reads nothing else -/

/-- What a decoder may answer for the word `w`: an error, or a well-formed instruction whose word is `w`. -/
def Faithful (w : CodeWord) (answer : Except DecodeError Instr) : Prop :=
  ∀ i, answer = .ok i → i.WellFormed ∧ encode i = w

theorem Faithful.error {w : CodeWord} {e : DecodeError} : Faithful w (.error e) := nofun

theorem Faithful.ok {w : CodeWord} {i : Instr} (wf : i.WellFormed) (word : encode i = w) : Faithful w (.ok i) := by
  rintro _ ⟨⟩
  exact ⟨wf, word⟩

theorem Faithful.ite {w : CodeWord} {c : Prop} [Decidable c] {yes no : Except DecodeError Instr}
    (ifTrue : c → Faithful w yes) (ifFalse : ¬ c → Faithful w no) : Faithful w (if c then yes else no) := by
  split
  · exact ifTrue ‹c›
  · exact ifFalse ‹¬ c›

/-- An operation may have any operands of its shape, a level or a frame among them in its one spelling as a number (R83). -/
theorem faithful_decodeOp (number : Nat) (operands : List Operand) :
    Faithful (.op (BitVec.ofNat 4 number) operands) (decodeOp number operands) := by
  unfold decodeOp
  split
  -- the operands stand in the instruction as they are
  case h_1 | h_4 | h_5 | h_6 | h_7 | h_8 | h_9 =>
    split
    · exact .ok rfl rfl
    · exact .error
  -- EDGE and RECORD: the second operand is a level
  case h_2 | h_3 =>
    split
    · split
      next read => exact .ok rfl (by rw [encode, levelNum_of_levelOf read]; rfl)
      next => exact .error
    · exact .error
  -- FORMAT_HEX and ENCODE: the first operand is a frame word
  case h_10 | h_11 =>
    split
    · split
      next read => exact .ok rfl (by rw [encode, toNat_of_frameOf read]; rfl)
      next => exact .error
    · exact .error
  -- SEND: the first operand is a text or a frame word
  case h_12 =>
    split
    · exact .ok rfl rfl
    · split
      next read => exact .ok rfl (by rw [encode, sendOperand, toNat_of_frameOf read]; rfl)
      next => exact .error
    · exact .error
  -- numbers 12 to 15
  case h_13 => exact .error

/-- From position 2 on the position gives the bit's number and the bit's number the position (R57). -/
theorem faithful_decodeBitSymbol {position : Nat} (afterHeader : 2 ≤ position) (d : Nat) :
    Faithful (.rxSym position d) (decodeBitSymbol position d) := by
  unfold decodeBitSymbol
  split
  · refine .ite (fun even => .ite (fun spelled => .ok spelled ?_) fun _ => .error) fun odd => ?_
    · have position_eq : markPos ((position - 2) / 2) = position := by rw [markPos]; omega
      rw [encode, position_eq]
    · have position_eq : spacePos ((position - 2) / 2) = position := by rw [spacePos]; omega
      split
      next one => exact .ok ((bitOfSpace_eq_true_iff_spells d).1 one) (by rw [encode, position_eq])
      next zero => exact .ok ((bitOfSpace_eq_false_iff_spells d).1 zero) (by rw [encode, position_eq])
      next => exact .error
  · exact .error

theorem faithful_decodeRxSym (position d : Nat) : Faithful (.rxSym position d) (decodeRxSym position d) := by
  refine .ite ?_ fun notFirst => .ite ?_ fun notSecond => faithful_decodeBitSymbol (by omega) d
  · rintro rfl
    exact .ite (fun leadIn => .ok leadIn rfl) fun _ => .ite (fun hdrMark => .ok hdrMark rfl) fun _ => .error
  · rintro rfl
    exact .ite (fun hdrSpace => .ok hdrSpace rfl) fun _ => .ite (fun rptSpace => .ok rptSpace rfl) fun _ => .error

theorem faithful_decodeRxFrame (p : List Nat) : Faithful (.rxFrame p) (decodeRxFrame p) :=
  .ite (fun isRepeat => .ok isRepeat rfl) fun _ => .ite (fun isStandard => .ok isStandard rfl) fun _ => .error

theorem faithful_decodeTxSym (items : List Item) : Faithful (.txSym items) (decodeTxSym items) :=
  .ite (fun header => .ok rfl (header ▸ rfl)) fun _ =>
  .ite (fun bit1 => .ok rfl (bit1 ▸ rfl)) fun _ =>
  .ite (fun bit0 => .ok rfl (bit0 ▸ rfl)) fun _ =>
  .ite (fun stop => .ok rfl (stop ▸ rfl)) fun _ =>
  .ite (fun repeatFrame => .ok rfl (repeatFrame ▸ rfl)) fun _ =>
  .ite (fun wait => .ok rfl (wait ▸ rfl)) fun _ => .error

theorem faithful_decodeTxFrame (items : List Item) : Faithful (.txFrame items) (decodeTxFrame items) :=
  .ite (fun output => .ok rfl (congrArg CodeWord.txFrame output.symm)) fun _ => .error

theorem faithful_decodeResultTag (tag : Nat) (payload : Option Frame) :
    Faithful (.result (BitVec.ofNat 2 tag) payload) (decodeResultTag tag payload) := by
  unfold decodeResultTag
  split
  case h_1 | h_2 | h_3 =>
    split
    · exact .ok rfl rfl
    · exact .error
  case h_4 => exact .error

theorem faithful_decodeCauseCode (code : Nat) : Faithful (.cause (BitVec.ofNat 3 code)) (decodeCauseCode code) := by
  unfold decodeCauseCode
  split
  case h_1 | h_2 | h_3 | h_4 => exact .ok rfl rfl
  case h_5 => exact .error

theorem faithful_decode (w : CodeWord) : Faithful w (decode w) := by
  cases w with
  | op number operands => simpa [decode] using faithful_decodeOp number.toNat operands
  | nec32 word => exact .ok rfl rfl
  | hex8 text => exact .ite (fun isText => .ok isText rfl) fun _ => .error
  | rxSym position d => exact faithful_decodeRxSym position d
  | rxFrame p => exact faithful_decodeRxFrame p
  | txSym items => exact faithful_decodeTxSym items
  | txFrame items => exact faithful_decodeTxFrame items
  | result tag payload => simpa [decode] using faithful_decodeResultTag tag.toNat payload
  | cause code => simpa [decode] using faithful_decodeCauseCode code.toNat

end Sys2Proof.Machine
end

section
/-! PROOFS. The statements of spec/30_encoding.md. -/

namespace Sys2Proof.Machine

/-- Settles O47, per instruction: its operands are read back as they were written, and a word that could spell two things is
told apart by disjoint ranges. -/
theorem decodeOfEncodeIsTheInstruction : Obligations.DecodeOfEncodeIsTheInstruction := by
  intro i wf
  cases i with
  | edge u level | record d level | formatHex f | encode f n => simp [encode, decode, decodeOp]
  | send code n => cases code <;> simp [encode, decode, decodeOp, sendOperand]
  | hexText text => exact if_pos wf
  | rxLeadIn d => exact if_pos wf
  | rxHdrMark d => exact decodeRxSym_hdrMark wf
  | rxHdrSpace d => exact if_pos wf
  | rxRptSpace d => exact decodeRxSym_rptSpace wf
  | rxBitMark k d => exact decodeRxSym_markPos k wf
  | rxOneSpace k d => exact decodeRxSym_spacePos k ((bitOfSpace_eq_true_iff_spells d).2 wf)
  | rxZeroSpace k d => exact decodeRxSym_spacePos k ((bitOfSpace_eq_false_iff_spells d).2 wf)
  | rxStandardFrame p => exact decodeRxFrame_of_standard wf
  | rxRepeatFrame p => exact if_pos wf
  | txOutput f n => exact decodeTxFrame_encodeItems f n
  | _ => rfl

/-- Settles O48: every format's decoder is `Faithful`. -/
theorem decodedWordIsItsEncoding : Obligations.DecodedWordIsItsEncoding := fun w i decoded =>
  faithful_decode w i decoded

/-- Settles O17: the ranges, written out, have no duration in common (R77). -/
theorem receiveRangesThatMustBeDisjointAre : Obligations.ReceiveRangesThatMustBeDisjointAre := by
  intro d
  simp only [spellsSymbol_oneSpace, spellsSymbol_zeroSpace, spellsSymbol_hdrSpace, spellsSymbol_rptSpace,
    decide_eq_true_eq]
  omega

/-- Settles O38: the fields read back are those the word is written of, and each predicate is the test on two of them. -/
theorem frameWordSplitsIntoItsFields : Obligations.FrameWordSplitsIntoItsFields := by
  intro addr naddr cmd ncmd s
  obtain ⟨addr_eq, naddr_eq, cmd_eq, ncmd_eq⟩ := frame_fields addr naddr cmd ncmd
  refine report_eq_next.2 ?_
  rw [addrOk, cmdOk, addr_eq, naddr_eq, cmd_eq, ncmd_eq]
  rfl

/-- Settles O39: the row and PARSE_HEX report the same, and a well-formed text parses. -/
theorem hexTextSpellsItsFrame : Obligations.HexTextSpellsItsFrame := by
  intro text s wf
  obtain ⟨f, parsed⟩ := (isHexText_iff text).1 wf
  have reports : execHexText text s = .next (s.emit [.frameWord f]) := by
    rw [execHexText, parseEvents, parsed, report]
  exact ⟨f, reports, reports⟩

/-- Settles O40: each row reports whether its symbol is spelled, which its range decides. -/
theorem receiveSymbolsHaveTheirRanges : Obligations.ReceiveSymbolsHaveTheirRanges := by
  intro d i s
  rw [← spellsSymbol_leadIn, ← spellsSymbol_hdrMark, ← spellsSymbol_hdrSpace, ← spellsSymbol_rptSpace,
    ← spellsSymbol_bitMark]
  exact ⟨rfl, rfl, rfl, rfl, rfl⟩

/-- Settles O41: a space gives its bit when its symbol is spelled, which its range decides. -/
theorem receiveSpacesGiveTheirBit : Obligations.ReceiveSpacesGiveTheirBit := by
  intro d i s
  refine ⟨fun inRange => ?_, fun outside => ?_, fun inRange => ?_, fun outside => ?_⟩
  · exact congrArg (report · s) (spaceEvents_of_spelled true i (by simpa using inRange))
  · exact congrArg (report · s) (spaceEvents_of_not_spelled true i (by simpa using outside))
  · exact congrArg (report · s) (spaceEvents_of_spelled false i (by simpa using inRange))
  · exact congrArg (report · s) (spaceEvents_of_not_spelled false i (by simpa using outside))

/-- Settles O42: the rows report what their layout is on the pulses after the lead-in. -/
theorem receivedLayoutsAreRecognised : Obligations.ReceivedLayoutsAreRecognised := by
  intro raw p s stripped
  exact ⟨fun _ standard => execRxStandardFrame_of_layout stripped standard s,
    fun noFrame => execRxStandardFrame_of_no_layout stripped noFrame s,
    fun isRepeat => execRxRepeatFrame_of_layout stripped isRepeat s,
    fun noRepeat => execRxRepeatFrame_of_no_layout stripped noRepeat s⟩

/-- Settles O44: the two loops of ENCODE, over the bits and over the repeats, written as lists. -/
theorem transmitOutputIsBuiltOfSymbols : Obligations.TransmitOutputIsBuiltOfSymbols := by
  intro f n s
  refine congrArg (fun l => report [.items l] s) ?_
  rw [encodeItems, frameItems, bitsItems_eq_flatMap, repeatItems_eq_flatten, ← List.range_eq_range']
  simp only [bitItems_eq]
  rfl

/-- Settles O43: each row reports its symbol's items, whose durations are the constants of R7. -/
theorem transmitSymbolsEmitTheirItems : Obligations.TransmitSymbolsEmitTheirItems := fun _ =>
  ⟨rfl, rfl, rfl, rfl, rfl, rfl⟩

/-- Settles O49: the decoder's tables end at number 11 and at tag 2 (R83). -/
theorem unassignedNumbersAreRefused : Obligations.UnassignedNumbersAreRefused :=
  ⟨fun _ operands unassigned => decodeOp_of_ge unassigned operands, fun _ => rfl⟩

/-- Settles O50: the decoder evaluates each of the thirteen closed words. -/
theorem specWordsDecode : Obligations.SpecWordsDecode := by
  unfold Obligations.SpecWordsDecode
  decide

end Sys2Proof.Machine
end

section
/-! SUPPORT. The capture conditions as the statements write them, and outputs added in two parts (spec/40_capture.md R105, R108). -/

namespace Sys2Proof.Machine

theorem readyOnStore_eq_decide (idleLevel level : Bool) (d n : Nat) :
    readyOnStore idleLevel level d n = decide ((level = idleLevel ∧ d > 30000 ∧ n > 30) ∨ n > 67) :=
  Bool.eq_iff_iff.2 ((readyOnStore_iff idleLevel level d n).trans decide_eq_true_iff.symm)

theorem timeoutFires_eq_decide (now lastEdgeTime len : Nat) :
    timeoutFires now lastEdgeTime len = decide (len > 10 ∧ now - lastEdgeTime > 70000) :=
  Bool.eq_iff_iff.2 ((timeoutFires_iff now lastEdgeTime len).trans decide_eq_true_iff.symm)

theorem State.emit_emit (s : State) (l m : List Event) : (s.emit l).emit m = s.emit (l ++ m) := by
  simp [State.emit]

end Sys2Proof.Machine
end

section
/-! PROOFS. The statements of spec/40_capture.md. -/

namespace Sys2Proof.Machine

/-- Settles O8: EDGE is RECORD on the stamped state, and RECORD leaves alone all the statement says stays. -/
theorem edgeRecordsTheTimeSinceTheLastEdge : Obligations.EdgeRecordsTheTimeSinceTheLastEdge := by
  intro t level s admitted
  obtain ⟨edge, last, go, idle, clock, playing, requests⟩ :=
    recordPulse_frame (t - s.block.lastEdgeTime) level ((s.setClock t).withBlock (s.block.stampEdge t))
  exact ⟨_, execEdge_eq_next.2 ⟨admitted, rfl⟩, rfl, edge, clock, last, go, idle, playing, requests⟩

/-- Settles O9, by the cases of RECORD: each clause of the statement is one of them and excludes the other two. -/
theorem recordIgnoresDropsOrStores : Obligations.RecordIgnoresDropsOrStores := by
  intro d level s
  rcases recordPulse_cases d level s with ⟨noise, ignores⟩ | ⟨long, full, drops⟩ | ⟨long, room, stores⟩
  · exact ⟨fun _ => congrArg _ ignores, fun long => absurd noise long.not_gt, fun long => absurd noise long.not_gt⟩
  · rw [State.emit_emit] at drops
    exact ⟨fun noise => absurd noise long.not_gt, fun _ _ => congrArg _ drops, fun _ room => absurd full room⟩
  · rw [readyOnStore_eq_decide] at stores
    exact ⟨fun noise => absurd noise long.not_gt, fun _ full => absurd full room, fun _ _ => congrArg _ stores⟩

/-- Settles O10: an admitted TIMEOUT_CHECK raises `ready` by the condition of R108 and only notes the stamp besides. -/
theorem timeoutCheckForcesReady : Obligations.TimeoutCheckForcesReady := by
  intro now s admitted
  rw [← timeoutFires_eq_decide]
  exact atStamp_of_notEarlier admitted (checkTimeout now)

/-- Settles O11: TAKE_SNAPSHOT is `drain`, with the old buffer as its output, under no condition. -/
theorem takeSnapshotExchangesTheBuffer : Obligations.TakeSnapshotExchangesTheBuffer := fun _ => rfl

end Sys2Proof.Machine
end

section
/-! SUPPORT. DECODE as a function of its result: what each answer does to the state, which layout gives it, and the pulse-by-pulse
form row by row (spec/41_decoder.md R130 to R143). -/

namespace Sys2Proof.Machine

/-! ### The tolerance band and the layouts -/

/-- The tolerance test with R130's subtraction, on integers. -/
theorem matchUs_eq_decide_int (d e : Nat) :
    matchUs d e = decide ((e : Int) - 400 ≤ d ∧ (d : Int) ≤ e + 400) := by
  rw [Bool.eq_iff_iff, matchUs_iff, decide_eq_true_iff]
  omega

theorem PulseIn.head_le {p : List Nat} {lo hi : Nat} (first : PulseIn p 0 lo hi) :
    ∀ d, p.head? = some d → d ≤ hi := by
  obtain ⟨e, read, _, upper⟩ := first
  intro d head
  rw [List.head?_eq_getElem?, read] at head
  exact Option.some.inj head ▸ upper

/-- A header mark is too short for the lead-in (R132). -/
theorem StandardLayout.withoutLeadIn {p : List Nat} {f : Frame} (layout : StandardLayout p f) : WithoutLeadIn p p :=
  .inr ⟨rfl, fun d head => (layout.1.head_le d head).trans (by decide)⟩

theorem pulseIn_take_iff {p : List Nat} {n k lo hi : Nat} (kept : k < n) :
    PulseIn (p.take n) k lo hi ↔ PulseIn p k lo hi := by
  rw [PulseIn, List.getElem?_take_of_lt kept, PulseIn]

/-- Whether a sequence has the repeat layout, its first 66 pulses tell (R144 (2)). -/
theorem repeatLayout_take_iff {p : List Nat} {n : Nat} (enough : 66 ≤ n) : RepeatLayout (p.take n) ↔ RepeatLayout p :=
  and_congr (pulseIn_take_iff (by omega)) (and_congr (pulseIn_take_iff (by omega)) (pulseIn_take_iff (by omega)))

/-- Whether a sequence has the standard layout of a frame, its first 66 pulses tell (R144 (2)). -/
theorem standardLayout_take_iff {p : List Nat} {n : Nat} {f : Frame} (enough : 66 ≤ n) :
    StandardLayout (p.take n) f ↔ StandardLayout p f := by
  refine and_congr (pulseIn_take_iff (by omega)) (and_congr (pulseIn_take_iff (by omega)) ?_)
  refine forall₂_congr fun i isBit => and_congr (pulseIn_take_iff (by omega)) (and_congr ?_ ?_)
  · exact imp_congr_right fun _ => pulseIn_take_iff (by omega)
  · exact imp_congr_right fun _ => pulseIn_take_iff (by omega)

/-- Of the first 67 pulses at least 66 remain after the lead-in. -/
theorem dropLeadIn_take (raw : List Nat) : ∃ n, 66 ≤ n ∧ dropLeadIn (raw.take 67) = (dropLeadIn raw).take n := by
  cases raw with
  | nil => exact ⟨66, le_refl 66, rfl⟩
  | cons d rest =>
    cases lead : isLeadIn d with
    | true => exact ⟨66, le_refl 66, by simp [dropLeadIn, lead]⟩
    | false => exact ⟨67, by decide, by simp [dropLeadIn, lead]⟩

/-- The length test of step 3 is implied by the read at position 2 (R134). -/
theorem isRepeatShaped_eq (p : List Nat) :
    isRepeatShaped p = (readsAs p 0 9000 && readsAs p 1 2250 && readsAs p 2 562) := by
  rw [Bool.eq_iff_iff, isRepeatShaped_iff]
  simp [RepeatLayout, readsAs_iff, and_assoc]

/-! ### The result of DECODE -/

/-- What a caller sees of the answer of steps 4 to 6. -/
def frameResult (answer : Except NoneReason Frame) : DecodeResult :=
  match answer with
  | .ok f => .command f
  | .error _ => .none

theorem frameResult_eq_command {answer : Except NoneReason Frame} {f : Frame} :
    frameResult answer = .command f ↔ answer = .ok f := by
  cases answer <;> simp [frameResult]

/-- Two answers that give the same frames differ at most in the reason for none, which is no output (R141). -/
theorem frameResult_congr {a b : Except NoneReason Frame} (same : ∀ f, a = .ok f ↔ b = .ok f) :
    frameResult a = frameResult b := by
  cases a with
  | ok f => rw [(same f).1 rfl]
  | error r =>
    cases b with
    | ok f => cases (same f).2 rfl
    | error r' => rfl

/-- The result on the pulses after the lead-in, by their layout alone (R144). -/
def layoutResult (p : List Nat) (last : Option LastCommand) (now : Nat) : DecodeResult :=
  if isRepeatShaped p then repeatResult last now else frameResult (standardFrame p)

theorem verdict_result (raw : List Nat) (last : Option LastCommand) (now : Nat) :
    (verdict raw last now).result = layoutResult (dropLeadIn raw) last now := by
  have stripped := (withoutLeadIn_iff raw _).2 rfl
  unfold layoutResult
  by_cases shape : isRepeatShaped (dropLeadIn raw) = true
  · rw [verdict_of_repeat stripped ((isRepeatShaped_iff _).1 shape), if_pos shape, repeatResult]
    split <;> rfl
  · rw [if_neg shape]
    cases answer : standardFrame (dropLeadIn raw) with
    | ok f =>
      rw [verdict_of_standard stripped ((standardFrame_eq_ok _ f).1 answer)]
      rfl
    | error r =>
      have noFrame : ∀ f, ¬ StandardLayout (dropLeadIn raw) f := by simp [← standardFrame_eq_ok, answer]
      obtain ⟨_, none⟩ := verdict_of_neither stripped (mt (isRepeatShaped_iff _).2 shape) noFrame last now
      rw [none]
      rfl

theorem layoutResult_eq_command {p : List Nat} {f : Frame} {last : Option LastCommand} {now : Nat} :
    layoutResult p last now = .command f ↔ StandardLayout p f := by
  unfold layoutResult
  by_cases shape : isRepeatShaped p = true
  · have noFrame : ¬ StandardLayout p f := fun layout => layout.not_repeat ((isRepeatShaped_iff p).1 shape)
    rw [if_pos shape, repeatResult]
    split <;> simp [noFrame]
  · rw [if_neg shape, frameResult_eq_command, standardFrame_eq_ok]

theorem layoutResult_take {p : List Nat} {n : Nat} (enough : 66 ≤ n) (last : Option LastCommand) (now : Nat) :
    layoutResult (p.take n) last now = layoutResult p last now := by
  have sameShape : isRepeatShaped (p.take n) = isRepeatShaped p := by
    rw [Bool.eq_iff_iff, isRepeatShaped_iff, isRepeatShaped_iff, repeatLayout_take_iff enough]
  have sameFrame : frameResult (standardFrame (p.take n)) = frameResult (standardFrame p) :=
    frameResult_congr fun f => by rw [standardFrame_eq_ok, standardFrame_eq_ok, standardLayout_take_iff enough]
  rw [layoutResult, sameShape, sameFrame, layoutResult]

/-! ### What DECODE does with its answer -/

theorem exec_decode_of_notEarlier {now : Nat} {s : State} (admitted : StampNotEarlier s now) (raw : List Nat) :
    exec (.decode raw now) s = .next (deliver (verdict raw s.block.last now) now (s.setClock now)) :=
  atStamp_of_notEarlier admitted (decodeSequence raw now)

theorem exec_decode_of_command {raw : List Nat} {now : Nat} {f : Frame} {s : State} (admitted : StampNotEarlier s now)
    (answer : verdict raw s.block.last now = .command f) :
    exec (.decode raw now) s =
      .next { s with
        block.last := some ⟨f, now⟩
        clock := now
        outputs := s.outputs ++ checksumDiags .rxAddrChecksum .rxCmdChecksum f ++ [.decodeResult (.command f)] } := by
  rw [exec_decode_of_notEarlier admitted, answer, deliver, rxChecksumDiags_eq, ← State.emit_emit]
  rfl

theorem exec_decode_of_repeatFrame {raw : List Nat} {now : Nat} {s : State} (admitted : StampNotEarlier s now)
    (answer : verdict raw s.block.last now = .repeatFrame) :
    exec (.decode raw now) s =
      .next { s with clock := now, outputs := s.outputs ++ [.decodeResult .repeatFrame] } := by
  rw [exec_decode_of_notEarlier admitted, answer]
  rfl

theorem exec_decode_of_none {raw : List Nat} {now : Nat} {r : NoneReason} {s : State} (admitted : StampNotEarlier s now)
    (answer : verdict raw s.block.last now = .none r) :
    exec (.decode raw now) s = .next { s with clock := now, outputs := s.outputs ++ [.decodeResult .none] } := by
  rw [exec_decode_of_notEarlier admitted, answer]
  rfl

/-- The state after DECODE depends on the result, not on the reason for a `None` (R141). -/
theorem deliver_congr {v w : Verdict} (same : v.result = w.result) (now : Nat) (s : State) :
    deliver v now s = deliver w now s := by
  cases v <;> cases w <;> cases same <;> rfl

/-- Sequences whose layouts give the same result in every repeat state decode alike, refusals included. -/
theorem exec_decode_congr {raw raw' : List Nat} {now : Nat}
    (same : ∀ last, layoutResult (dropLeadIn raw) last now = layoutResult (dropLeadIn raw') last now) (s : State) :
    exec (.decode raw now) s = exec (.decode raw' now) s := by
  have bodies : decodeSequence raw now = decodeSequence raw' now :=
    funext fun s => deliver_congr (by rw [verdict_result, verdict_result, same]) now s
  exact congrArg (atStamp now s) bodies

/-- DECODE outputs last the result its layout gives. -/
theorem decodeSequence_getLast? (raw : List Nat) (now : Nat) (s : State) :
    (decodeSequence raw now s).outputs.getLast? =
      some (.decodeResult (layoutResult (dropLeadIn raw) s.block.last now)) := by
  rw [decodeSequence_result, verdict_result]

/-! ### The pulse-by-pulse form, one row of R143's table after the other

Each row reads the pulse at position `k`, or meets the end marker there. -/

section
variable (last : Option LastCommand) (now : Nat)

theorem fsmFrom_done (r : DecodeResult) (s : List Nat) : fsmFrom last now (.done r) s = r := by
  induction s with
  | nil => rfl
  | cons d rest ih => exact ih

theorem fsmFrom_drop_of_some {p : List Nat} {k d : Nat} (read : memRead p k = some d) (st : FsmState) :
    fsmFrom last now st (p.drop k) = fsmFrom last now (fsmPulse last now st d) (p.drop (k + 1)) := by
  obtain ⟨inside, rfl⟩ := List.getElem?_eq_some_iff.1 read
  rw [List.drop_eq_getElem_cons inside, fsmFrom]

theorem fsmFrom_drop_of_none {p : List Nat} {k : Nat} (read : memRead p k = none) (st : FsmState) :
    fsmFrom last now st (p.drop k) = fsmEnd st := by
  rw [List.drop_eq_nil_of_le (List.getElem?_eq_none_iff.1 read), fsmFrom]

/-- A state that goes on to `next` on a pulse that matches `e`, and else answers `None`. -/
theorem fsmFrom_of_mark {st next : FsmState} {e : Nat} (atEnd : fsmEnd st = .none)
    (onPulse : ∀ d, fsmPulse last now st d = if matchUs d e then next else .done .none) (p : List Nat) (k : Nat) :
    fsmFrom last now st (p.drop k) = if readsAs p k e then fsmFrom last now next (p.drop (k + 1)) else .none := by
  unfold readsAs
  cases read : memRead p k with
  | none => exact (fsmFrom_drop_of_none last now read st).trans atEnd
  | some d =>
    rw [fsmFrom_drop_of_some last now read, onPulse]
    split
    · rfl
    · exact fsmFrom_done last now .none _

/-- Row 0: the lead-in is taken off once (R132). -/
theorem fsmFrom_start (raw : List Nat) :
    fsmFrom last now .start raw = fsmFrom last now .hdrMark (dropLeadIn raw) := by
  cases raw with
  | nil => rfl
  | cons d rest => cases lead : isLeadIn d <;> simp [fsmFrom, fsmPulse, dropLeadIn, lead]

/-- Row 1. -/
theorem fsmFrom_hdrMark (p : List Nat) (k : Nat) :
    fsmFrom last now .hdrMark (p.drop k) =
      if readsAs p k 9000 then fsmFrom last now .hdrSpace (p.drop (k + 1)) else .none :=
  fsmFrom_of_mark last now rfl (fun _ => rfl) p k

/-- Row 2. -/
theorem fsmFrom_hdrSpace (p : List Nat) (k : Nat) :
    fsmFrom last now .hdrSpace (p.drop k) =
      if readsAs p k 4500 then fsmFrom last now (.bitMark 0 0) (p.drop (k + 1))
      else if readsAs p k 2250 then fsmFrom last now .rptMark (p.drop (k + 1)) else .none := by
  unfold readsAs
  cases read : memRead p k with
  | none => exact fsmFrom_drop_of_none last now read .hdrSpace
  | some d =>
    rw [fsmFrom_drop_of_some last now read, fsmPulse]
    split
    · rfl
    · split
      · rfl
      · exact fsmFrom_done last now .none _

/-- Row 3. -/
theorem fsmFrom_rptMark (p : List Nat) (k : Nat) :
    fsmFrom last now .rptMark (p.drop k) = if readsAs p k 562 then repeatResult last now else .none := by
  rw [fsmFrom_of_mark last now (next := .done (repeatResult last now)) rfl (fun _ => rfl), fsmFrom_done]

/-- Row 4. -/
theorem fsmFrom_bitMark (p : List Nat) (k i : Nat) (v : Frame) :
    fsmFrom last now (.bitMark i v) (p.drop k) =
      if readsAs p k 562 then fsmFrom last now (.bitSpace i v) (p.drop (k + 1)) else .none :=
  fsmFrom_of_mark last now rfl (fun _ => rfl) p k

/-- Row 5, on a space that spells a bit. -/
theorem fsmFrom_bitSpace_of_some {p : List Nat} {k : Nat} {b : Bool}
    (spelled : (memRead p k).bind bitOfSpace = some b) (i : Nat) (v : Frame) :
    fsmFrom last now (.bitSpace i v) (p.drop k) = fsmFrom last now (fsmTakeBit i v b) (p.drop (k + 1)) := by
  obtain ⟨d, read, bit⟩ := Option.bind_eq_some_iff.1 spelled
  simp only [fsmFrom_drop_of_some last now read, fsmPulse, bit]

/-- Row 5, on a space that spells none, or at the end. -/
theorem fsmFrom_bitSpace_of_none {p : List Nat} {k : Nat} (notSpelled : (memRead p k).bind bitOfSpace = none)
    (i : Nat) (v : Frame) : fsmFrom last now (.bitSpace i v) (p.drop k) = .none := by
  cases read : memRead p k with
  | none => exact fsmFrom_drop_of_none last now read (.bitSpace i v)
  | some d =>
    rw [read, Option.bind_some] at notSpelled
    simp only [fsmFrom_drop_of_some last now read, fsmPulse, notSpelled, fsmFrom_done]

/-! ### The pulse-by-pulse form against step 6 and the layouts -/

/-- Rows 4 and 5 on bit `i`: the form goes on with the bit that step 6 reads, and answers `None` where that reads none (R137). -/
theorem fsmFrom_bit (p : List Nat) (i : Nat) (v : Frame) :
    (∀ b, readBit p i = .ok b → fsmFrom last now (.bitMark i v) (p.drop (markPos i)) =
      fsmFrom last now (fsmTakeBit i v b) (p.drop (markPos (i + 1)))) ∧
    ∀ r, readBit p i = .error r → fsmFrom last now (.bitMark i v) (p.drop (markPos i)) = .none := by
  have space_after_mark : markPos i + 1 = spacePos i := by rw [markPos, spacePos]; omega
  have mark_after_space : spacePos i + 1 = markPos (i + 1) := by rw [markPos, spacePos]; omega
  rw [fsmFrom_bitMark, space_after_mark, readBit]
  by_cases mark : readsAs p (markPos i) 562 = true
  · rw [if_pos mark, if_pos mark]
    cases space : (memRead p (spacePos i)).bind bitOfSpace with
    | none => exact ⟨nofun, fun _ _ => fsmFrom_bitSpace_of_none last now space i v⟩
    | some b =>
      refine ⟨?_, nofun⟩
      rintro _ ⟨⟩
      rw [fsmFrom_bitSpace_of_some last now space, mark_after_space]
  · rw [if_neg mark, if_neg mark]
    exact ⟨nofun, fun _ _ => rfl⟩

/-- From bit `i` on, with `v` so far, the form reads what the loop of step 6 reads (R137). -/
theorem fsmFrom_bits (p : List Nat) (left i : Nat) (v : Frame) (rest : i + left = 31) :
    fsmFrom last now (.bitMark i v) (p.drop (markPos i)) = frameResult (readBits p (left + 1) i v) := by
  obtain ⟨onBit, onNone⟩ := fsmFrom_bit last now p i v
  rw [readBits]
  cases read : readBit p i with
  | error r => exact onNone r read
  | ok b =>
    rw [onBit b read, fsmTakeBit]
    match left with
    | 0 =>
      rw [if_pos (by omega), fsmFrom_done]
      rfl
    | left + 1 => rw [if_neg (by omega), fsmFrom_bits p left (i + 1) _ (by omega)]

/-- The loop of step 6 reads position 65, so it gives a frame on 66 pulses or more alone (R136). -/
theorem le_length_of_readBits {p : List Nat} {f : Frame} (bits : readBits p 32 0 0 = .ok f) : 66 ≤ p.length := by
  obtain ⟨read, _⟩ := (readBits_eq_ok p f 32 0 0 (le_refl 32)).1 bits
  obtain ⟨_, one, zero⟩ := (readBit_eq_ok p _ _).1 (read 31 (by decide))
  cases bit : f.getLsbD (32 - 1 - 31) with
  | true => exact (one bit).lt_length
  | false => exact (zero bit).lt_length

/-- With the header in place the result is the loop's: it fails where the length test of step 5 does. -/
theorem frameResult_of_header {p : List Nat} (hdrMark : readsAs p 0 9000 = true)
    (hdrSpace : readsAs p 1 4500 = true) : frameResult (standardFrame p) = frameResult (readBits p 32 0 0) := by
  have header : standardFrame p = if p.length < 66 then .error .shortFrame else readBits p 32 0 0 := by
    simp only [standardFrame, hdrMark, hdrSpace, Bool.not_true, Bool.false_eq_true, if_false]
    rfl
  rw [header]
  split
  next short =>
    refine frameResult_congr fun f => ⟨nofun, fun bits => ?_⟩
    exact absurd (le_length_of_readBits bits) short.not_ge
  next => rfl

/-- The second pulse of a standard frame is no repeat space (R77). -/
theorem readsAs_rptSpace_of_hdrSpace {p : List Nat} (hdrSpace : readsAs p 1 4500 = true) :
    readsAs p 1 2250 = false := by
  obtain ⟨d, read, low, _⟩ := (readsAs_iff p 1 4500).1 hdrSpace
  rw [← Bool.not_eq_true, readsAs_iff]
  rintro ⟨e, read', _, high⟩
  obtain rfl : d = e := Option.some.inj (read.symm.trans read')
  omega

/-- After the lead-in the form answers by the layout of the pulses: the header, then the bits or the repeat mark. -/
theorem fsmFrom_hdrMark_eq_layoutResult (p : List Nat) : fsmFrom last now .hdrMark p = layoutResult p last now := by
  have form := fsmFrom_hdrMark last now p 0
  rw [List.drop_zero, fsmFrom_hdrSpace, fsmFrom_rptMark] at form
  rw [form, layoutResult, isRepeatShaped_eq]
  by_cases hdrMark : readsAs p 0 9000 = true
  · by_cases hdrSpace : readsAs p 1 4500 = true
    · have bits := fsmFrom_bits last now p 31 0 0 rfl
      rw [frameResult_of_header hdrMark hdrSpace, readsAs_rptSpace_of_hdrSpace hdrSpace, if_pos hdrMark,
        if_pos hdrSpace, Bool.and_false, Bool.false_and, if_neg Bool.false_ne_true]
      exact bits
    · have noFrame : standardFrame p = .error .badHdrSpace := by simp [standardFrame, hdrMark, hdrSpace]
      rw [noFrame]
      by_cases rptSpace : readsAs p 1 2250 = true <;> simp [hdrMark, hdrSpace, rptSpace, frameResult]
  · have noFrame : standardFrame p = .error .badHdrMark := by simp [standardFrame, hdrMark]
    simp [hdrMark, noFrame, frameResult]

/-- The two forms of the decoder give the same result (R143). -/
theorem fsmResult_eq_layoutResult (raw : List Nat) :
    fsmResult raw last now = layoutResult (dropLeadIn raw) last now := by
  rw [fsmResult, fsmFrom_start, fsmFrom_hdrMark_eq_layoutResult]

end

end Sys2Proof.Machine
end

section
/-! SUPPORT. The pulses a receiver gets of an encoded frame (spec/41_decoder.md R144 (5)). -/

namespace Sys2Proof.Machine

theorem take_encodeItems (f : Frame) (n : Nat) : (encodeItems f n).take 68 = frameItems f := by
  rw [encodeItems, List.append_assoc, List.take_left' (length_frameItems f)]

theorem loopbackPulses_append (l m : List Item) : loopbackPulses (l ++ m) = loopbackPulses l ++ loopbackPulses m := by
  rw [loopbackPulses, List.map_append, List.filter_append, loopbackPulses, loopbackPulses]

/-- No item of a bit has duration 0, so a receiver gets them all. -/
theorem loopbackPulses_bitsItems (f : Frame) (left i : Nat) :
    loopbackPulses (bitsItems f left i) = (bitsItems f left i).map itemDur := by
  induction left generalizing i with
  | zero => rfl
  | succ left ih =>
    have bit : loopbackPulses (bitItems (lineBit f i)) = (bitItems (lineBit f i)).map itemDur := by
      cases lineBit f i <;> rfl
    rw [bitsItems, loopbackPulses_append, bit, ih, List.map_append]

/-- The pulses of a frame: the header, the bits, and of the stop symbol its mark alone, as its space has duration 0. -/
theorem loopbackPulses_frameItems (f : Frame) :
    loopbackPulses (frameItems f) = 9000 :: 4500 :: ((bitsItems f 32 0).map itemDur ++ [560]) := by
  rw [frameItems, loopbackPulses_append, loopbackPulses_append, Config.nec_nbits, loopbackPulses_bitsItems]
  rfl

/-- After the header each pulse is the duration of the item at its place among the bits. -/
theorem getElem?_loopbackPulses_frameItems (f : Frame) {j : Nat} (inBits : j < 64) :
    (loopbackPulses (frameItems f))[2 + j]? = (bitsItems f 32 0)[j]?.map itemDur := by
  have inside : j < ((bitsItems f 32 0).map itemDur).length := by simpa using inBits
  rw [loopbackPulses_frameItems, Nat.add_comm, List.getElem?_cons_succ, List.getElem?_cons_succ,
    List.getElem?_append_left inside, List.getElem?_map]

theorem getElem?_loopbackPulses_bit (f : Frame) {i : Nat} (isBit : i < 32) :
    (loopbackPulses (frameItems f))[2 + 2 * i]? = some 560 ∧
      (loopbackPulses (frameItems f))[3 + 2 * i]? = some (if f.getLsbD (31 - i) then 1690 else 560) := by
  obtain ⟨mark, space⟩ := getElem?_bitsItems f 32 0 i isBit
  rw [Nat.zero_add] at space
  rw [show 3 + 2 * i = 2 + (2 * i + 1) by omega, getElem?_loopbackPulses_frameItems f (by omega),
    getElem?_loopbackPulses_frameItems f (by omega), mark, space]
  exact ⟨rfl, rfl⟩

/-- An encoded frame, as a receiver gets it, has the standard layout of its frame word (R79). -/
theorem standardLayout_loopbackPulses (f : Frame) : StandardLayout (loopbackPulses (frameItems f)) f := by
  have hdrMark : (loopbackPulses (frameItems f))[0]? = some 9000 := by rw [loopbackPulses_frameItems]; rfl
  have hdrSpace : (loopbackPulses (frameItems f))[1]? = some 4500 := by rw [loopbackPulses_frameItems]; rfl
  refine ⟨⟨_, hdrMark, by decide⟩, ⟨_, hdrSpace, by decide⟩, fun i isBit => ?_⟩
  obtain ⟨mark, space⟩ := getElem?_loopbackPulses_bit f isBit
  refine ⟨⟨_, mark, by decide⟩, fun one => ⟨_, space, ?_⟩, fun zero => ⟨_, space, ?_⟩⟩
  · rw [one]
    decide
  · rw [zero]
    decide

end Sys2Proof.Machine
end

section
/-! PROOFS. The statements of spec/41_decoder.md. -/

namespace Sys2Proof.Machine

/-- Settles O26: the pulses of an encoded frame have the standard layout of the frame, without a lead-in. -/
theorem encodedFrameDecodesToItself : Obligations.EncodedFrameDecodesToItself := by
  intro f now s admitted
  have layout := standardLayout_loopbackPulses f
  rw [take_encodeItems]
  exact exec_decode_of_command admitted (verdict_of_standard layout.withoutLeadIn layout _ now)

/-- Settles O16: MATCH reports the tolerance test, written with subtraction. -/
theorem matchAcceptsExactlyTheToleranceBand : Obligations.MatchAcceptsExactlyTheToleranceBand := fun d e s =>
  congrArg (fun b => report [.matchBit b] s) (matchUs_eq_decide_int d e)

/-- Settles O18: the standard layout gives the verdict `Command`, which steps 7 and 8 deliver. -/
theorem decodeOfStandardFrameIsItsCommand : Obligations.DecodeOfStandardFrameIsItsCommand :=
  fun _ _ _ now _ admitted stripped layout =>
    exec_decode_of_command admitted (verdict_of_standard stripped layout _ now)

/-- Settles O19: on the repeat layout the verdict is by the window of R134 alone. -/
theorem decodeOfRepeatShapeLooksAtTheWindow : Obligations.DecodeOfRepeatShapeLooksAtTheWindow := by
  intro raw p now s admitted stripped layout
  have answer := verdict_of_repeat stripped layout s.block.last now
  refine ⟨fun inside => ?_, fun outside => ?_⟩
  · rw [if_pos ((repeatAccepted_iff _ now).2 inside)] at answer
    exact exec_decode_of_repeatFrame admitted answer
  · have rejected : ¬ repeatAccepted s.block.last now = true := by
      rw [repeatAccepted_iff]
      rintro ⟨l, held, recent⟩
      exact (outside l held).not_gt recent
    rw [if_neg rejected] at answer
    exact exec_decode_of_none admitted answer

/-- Settles O20: with neither layout the verdict is `None`, whatever its reason. -/
theorem decodeOfNeitherLayoutIsNone : Obligations.DecodeOfNeitherLayoutIsNone := by
  intro raw p now s admitted stripped noRepeat noFrame
  obtain ⟨_, answer⟩ := verdict_of_neither stripped noRepeat noFrame s.block.last now
  exact exec_decode_of_none admitted answer

/-- Settles O21: the last output is the result the layout gives, and that is `Command` on the standard layout alone. -/
theorem commandExactlyOnStandardLayout : Obligations.CommandExactlyOnStandardLayout := by
  intro raw p f now s admitted stripped
  have result := decodeSequence_getLast? raw now (s.setClock now)
  rw [(withoutLeadIn_iff raw p).1 stripped] at result
  rw [← layoutResult_eq_command (last := s.block.last) (now := now)]
  constructor
  · rintro ⟨t, next, command⟩
    obtain ⟨_, rfl⟩ := atStamp_eq_next.1 next
    simpa using result.symm.trans command
  · intro command
    exact ⟨_, atStamp_of_notEarlier admitted _, result.trans (by rw [State.setClock_block, command])⟩

/-- Settles O22: a sequence that begins with no second lead-in is what is left after the first; one that does has neither layout,
its first pulse being no header mark. -/
theorem leadInIsDiscardedOnce : Obligations.LeadInIsDiscardedOnce := by
  intro d p now s admitted leadIn
  have stripped : WithoutLeadIn (d :: p) p := .inl ⟨d, leadIn, rfl⟩
  refine ⟨fun noSecond => ?_, ?_⟩
  · have same : dropLeadIn (d :: p) = dropLeadIn p := by
      rw [(withoutLeadIn_iff _ p).1 stripped, (withoutLeadIn_iff p p).1 (.inr ⟨rfl, noSecond⟩)]
    exact exec_decode_congr (fun _ => by rw [same]) s
  · rintro ⟨e, second, long⟩
    have noMark : ¬ PulseIn p 0 8600 9400 := fun mark => by
      have := mark.head_le e second
      omega
    exact decodeOfNeitherLayoutIsNone _ p now s admitted stripped (fun layout => noMark layout.1)
      fun _ layout => noMark layout.1

/-- Settles O23: the layouts are told by the first 66 pulses after the lead-in. -/
theorem decodeReadsAtMost67Pulses : Obligations.DecodeReadsAtMost67Pulses := by
  intro raw now s
  obtain ⟨n, enough, same⟩ := dropLeadIn_take raw
  exact exec_decode_congr (fun last => by rw [same, layoutResult_take enough]) s

/-- Settles O24: both forms give the result of the layout, and the state update is by the result. -/
theorem pulseByPulseFormAgreesWithDecode : Obligations.PulseByPulseFormAgreesWithDecode := by
  intro raw now s admitted
  refine ⟨_, exec_decode_of_notEarlier admitted raw, ?_, ?_⟩
  · rw [fsmResult_eq_layoutResult]
    exact decodeSequence_getLast? raw now (s.setClock now)
  · rw [fsmResult_eq_layoutResult, ← verdict_result]
    cases verdict raw s.block.last now <;> rfl

end Sys2Proof.Machine
end

section
/-! SUPPORT. What PARSE_HEX, FORMAT_HEX, ENCODE and SEND of a text answer, each by an equation, and how an answer is read
back from the outputs; a frame word by its eight digits (spec/42_encoder.md R170 to R173, R178). -/

namespace Sys2Proof.Machine

theorem State.emit_inj {s : State} {l m : List Event} : s.emit l = s.emit m ↔ l = m := by
  simp [State.emit]

/-! ### PARSE_HEX -/

theorem digitValue_eq_none (c : Char) : digitValue c = none ↔ ∀ v, ¬ HexDigitValue c v := by
  simp only [← digitValue_iff, Option.eq_none_iff_forall_ne_some, ne_eq]

theorem parseText_of_length_ne {text : List Char} (wrong : text.length ≠ 8) : parseText text = .error .badLength :=
  if_neg wrong

theorem parseText_of_length_eq {text : List Char} (eight : text.length = 8) : parseText text = foldDigits text 0 :=
  if_pos eight

theorem exec_parseHex_of_ok {text : List Char} {f : Frame} (parsed : parseText text = .ok f) (s : State) :
    exec (.parseHex text) s = .next (s.emit [.frameWord f]) := by
  rw [exec, execParseHex, parseEvents, parsed, report]

theorem exec_parseHex_of_error {text : List Char} {r : EncodeReason} (failed : parseText text = .error r) (s : State) :
    exec (.parseHex text) s = .next (s.emit [.encodeError]) := by
  rw [exec, execParseHex, parseEvents, failed, report]

theorem exec_parseHex_eq_frameWord {text : List Char} {f : Frame} {s : State} :
    exec (.parseHex text) s = .next (s.emit [.frameWord f]) ↔ parseText text = .ok f := by
  cases answer : parseText text with
  | ok g => simp [exec_parseHex_of_ok answer, State.emit_inj]
  | error r => simp [exec_parseHex_of_error answer, State.emit_inj]

theorem exec_parseHex_eq_encodeError {text : List Char} {s : State} :
    exec (.parseHex text) s = .next (s.emit [.encodeError]) ↔ ∃ r, parseText text = .error r := by
  cases answer : parseText text with
  | ok g => simp [exec_parseHex_of_ok answer, State.emit_inj]
  | error r => simp [exec_parseHex_of_error answer]

/-! ### FORMAT_HEX -/

theorem exec_formatHex_eq_hexText {f : Frame} {text : List Char} {s : State} :
    exec (.formatHex f) s = .next (s.emit [.hexText text]) ↔ formatText f = text := by
  rw [exec, execFormatHex, report_eq_next, State.emit_inj, List.singleton_inj, Event.hexText.injEq]

theorem hexDigitValue_hexDigit (v : BitVec 4) : HexDigitValue (hexDigit v) v.toNat :=
  (digitValue_iff _ _).1 (digitValue_hexDigit v)

theorem hexDigit_not_lowerCase (v : BitVec 4) :
    ¬ ('a'.toNat ≤ (hexDigit v).toNat ∧ (hexDigit v).toNat ≤ 'f'.toNat) := by
  revert v
  decide

/-- A frame word is its eight 4-bit groups (R171). -/
theorem frame_eq_of_digits {f g : Frame}
    (same : ∀ k, k < 8 → (f.extractLsb' (28 - 4 * k) 4).toNat = (g.extractLsb' (28 - 4 * k) 4).toNat) : f = g := by
  refine BitVec.eq_of_getLsbD_eq fun j inFrame => ?_
  have group := congrArg (BitVec.getLsbD · (j % 4)) (BitVec.eq_of_toNat_eq (same (7 - j / 4) (by omega)))
  have place : 28 - 4 * (7 - j / 4) + j % 4 = j := by omega
  simpa [BitVec.getLsbD_extractLsb', place, Nat.mod_lt] using group

theorem parseText_formatText (f : Frame) : parseText (formatText f) = .ok f := by
  have digits : ∀ c, c ∈ formatText f → ∃ v, digitValue c = some v := by
    intro c inText
    obtain ⟨k, _, rfl⟩ := List.mem_map.1 inText
    exact ⟨_, digitValue_hexDigit _⟩
  obtain ⟨g, folded⟩ := foldDigits_isOk (formatText f) 0 digits
  have parsed : parseText (formatText f) = .ok g := (parseText_of_length_eq (length_formatText f)).trans folded
  have same : f = g := frame_eq_of_digits fun k isDigit => by
    have digit := parseText_digits parsed k _ (getElem?_formatText f k isDigit)
    exact Option.some.inj ((digitValue_hexDigit _).symm.trans digit)
  rw [parsed, same]

/-! ### ENCODE -/

theorem exec_encode (f : Frame) (n : Nat) (s : State) :
    exec (.encode f n) s =
      .next { s with outputs := s.outputs ++ txChecksumWarnings f ++ [.items (encodeItems f n)] } := by
  rw [exec, execEncode, report, State.emit, List.append_assoc]

/-- What ENCODE outputs tells its warnings and its items, the last output (R172, R173). -/
theorem exec_encode_eq_items {f : Frame} {n : Nat} {s : State} {w : List Event} {l : List Item} :
    exec (.encode f n) s = .next { s with outputs := s.outputs ++ w ++ [.items l] } ↔
      txChecksumWarnings f = w ∧ encodeItems f n = l := by
  simp [exec_encode]

/-! ### SEND of a text -/

theorem exec_send_of_parse_ok {text : List Char} {f : Frame} (parsed : parseText text = .ok f) (n : Nat) (s : State) :
    exec (.send (.text text) n) s =
      .next { s with
        playing := s.playing ++ encodeItems f n
        outputs := s.outputs ++ txChecksumWarnings f ++ [.sendReply true (encodeItems f n)] } :=
  execSend_of_ok (code := .text text) parsed n s

theorem exec_send_of_parse_error {text : List Char} {r : EncodeReason} (failed : parseText text = .error r) (n : Nat)
    (s : State) :
    exec (.send (.text text) n) s = .next { s with outputs := s.outputs ++ [.sendReply false []] } :=
  execSend_of_error (code := .text text) failed n s

end Sys2Proof.Machine
end

section
/-! SUPPORT. The items of ENCODE after the bits, its counts and its nominal time (spec/42_encoder.md R175 to R177). -/

namespace Sys2Proof.Machine

/-! ### Positions -/

theorem getElem?_encodeItems_afterBits (f : Frame) (n j : Nat) :
    (encodeItems f n)[66 + j]? = (stopItems ++ waitItems ++ repeatItems n)[j]? := by
  have parts : encodeItems f n = (headerItems ++ bitsItems f 32 0) ++ (stopItems ++ waitItems ++ repeatItems n) := by
    simp only [encodeItems, frameItems, List.append_assoc]
  have before : (headerItems ++ bitsItems f 32 0).length = 66 := by simp [headerItems]
  rw [parts, List.getElem?_append_right (by omega), before, Nat.add_sub_cancel_left]

/-- Item `k` of repeat `q` (R175). -/
theorem getElem?_encodeItems_repeat (f : Frame) {n q k : Nat} (isRepeat : q < n) (inside : k < 6) :
    (encodeItems f n)[69 + 6 * q + k]? = (waitItems ++ repeatFrameItems ++ waitItems)[k]? := by
  rw [show 69 + 6 * q + k = 66 + (6 * q + k + 3) by omega, getElem?_encodeItems_afterBits,
    ← getElem?_repeatItems n q k isRepeat inside]
  rfl

/-! ### Counts -/

theorem countP_isSegment_bitsItems (f : Frame) (left i : Nat) : (bitsItems f left i).countP isSegment = 2 * left := by
  induction left generalizing i with
  | zero => rfl
  | succ left ih =>
    have bit : (bitItems (lineBit f i)).countP isSegment = 2 := by cases lineBit f i <;> rfl
    rw [bitsItems, List.countP_append, bit, ih, Nat.mul_succ, Nat.add_comm]

theorem countP_isSegment_repeatItems (n : Nat) : (repeatItems n).countP isSegment = 4 * n := by
  induction n with
  | zero => rfl
  | succ n ih =>
    have one : (waitItems ++ repeatFrameItems ++ waitItems).countP isSegment = 4 := rfl
    rw [repeatItems, List.countP_append, one, ih, Nat.mul_succ, Nat.add_comm]

theorem countP_isSegment_encodeItems (f : Frame) (n : Nat) : (encodeItems f n).countP isSegment = 68 + 4 * n := by
  simp only [encodeItems, frameItems, List.countP_append, countP_isSegment_bitsItems,
    countP_isSegment_repeatItems]
  rfl

/-! ### Nominal time -/

theorem nominalTime_append (l m : List Item) : nominalTime (l ++ m) = nominalTime l + nominalTime m := by
  rw [nominalTime, List.map_append, List.sum_append, nominalTime, nominalTime]

/-- Each bit takes 1120 µs, and a 1 takes 1130 more (R174). -/
theorem nominalTime_bitsItems (f : Frame) (left i : Nat) :
    nominalTime (bitsItems f left i) = 1120 * left + 1130 * (List.range' i left).countP (lineBit f) := by
  induction left generalizing i with
  | zero => rfl
  | succ left ih =>
    rw [bitsItems, nominalTime_append, ih, List.range'_succ, List.countP_cons, bitItems_eq]
    cases lineBit f i <;> simp [nominalTime, itemDur] <;> omega

theorem nominalTime_repeatItems (n : Nat) : nominalTime (repeatItems n) = 91810 * n := by
  induction n with
  | zero => rfl
  | succ n ih =>
    have one : nominalTime (waitItems ++ repeatFrameItems ++ waitItems) = 91810 := rfl
    rw [repeatItems, nominalTime_append, one, ih, Nat.mul_succ, Nat.add_comm]

/-- `ones(F)` does not depend on the order of the bits (R71, R174). -/
theorem countP_lineBit (f : Frame) :
    (List.range' 0 32).countP (lineBit f) = (List.range 32).countP (fun k => f.getLsbD k) := by
  have mirrored : (List.range 32).reverse = (List.range' 0 32).map (31 - ·) := by decide
  rw [← List.countP_reverse (l := List.range 32), mirrored, List.countP_map]
  rfl

theorem nominalTime_encodeItems (f : Frame) (n : Nat) :
    nominalTime (encodeItems f n) =
      49900 + 1130 * (List.range 32).countP (fun k => f.getLsbD k) + 40000 + 91810 * n := by
  have header : nominalTime headerItems = 13500 := rfl
  have stop : nominalTime stopItems = 560 := rfl
  have wait : nominalTime waitItems = 40000 := rfl
  simp only [encodeItems, frameItems, nominalTime_append, nominalTime_bitsItems, countP_lineBit,
    nominalTime_repeatItems, header, stop, wait]
  omega

end Sys2Proof.Machine
end

section
/-! PROOFS. The statements of spec/42_encoder.md. -/

namespace Sys2Proof.Machine

/-- Settles O31: the length test comes first, then the digits, whose values are the 4-bit groups of the frame. -/
theorem parseHexReadsEightDigits : Obligations.ParseHexReadsEightDigits := by
  intro text s
  refine ⟨fun wrong => ?_, fun eight noDigit => ?_, fun eight digits => ?_⟩
  · have failed := parseText_of_length_ne wrong
    exact ⟨failed, exec_parseHex_of_error failed s⟩
  · simp only [← digitValue_eq_none] at noDigit
    have failed := (parseText_of_length_eq eight).trans (foldDigits_badDigit text 0 noDigit)
    exact ⟨failed, exec_parseHex_of_error failed s⟩
  · simp only [← digitValue_iff] at digits
    obtain ⟨f, folded⟩ := foldDigits_isOk text 0 digits
    have parsed := (parseText_of_length_eq eight).trans folded
    exact ⟨f, parsed, exec_parseHex_of_ok parsed s, fun k c read =>
      (digitValue_iff c _).1 (parseText_digits parsed k c read)⟩

/-- Settles O32: character `k` is the upper-case digit of its 4 bits. -/
theorem formatHexSpellsUpperCaseDigits : Obligations.FormatHexSpellsUpperCaseDigits := fun f _ =>
  ⟨formatText f, exec_formatHex_eq_hexText.2 rfl, length_formatText f, fun k isDigit =>
    ⟨_, getElem?_formatText f k isDigit, hexDigitValue_hexDigit _, hexDigit_not_lowerCase _⟩⟩

/-- Settles O33: the text is the frame's own, and its digits read back are those of the frame. -/
theorem parseOfFormatIsTheFrame : Obligations.ParseOfFormatIsTheFrame := by
  intro f text s t formatted
  obtain rfl := exec_formatHex_eq_hexText.1 formatted
  exact exec_parseHex_of_ok (parseText_formatText f) t

/-- Settles O34: the header and the bits stand first, then the stop symbol and the frame gap, then the repeats. -/
theorem encodeEmitsTheClosedForm : Obligations.EncodeEmitsTheClosedForm := by
  intro f n s
  rw [exec_encode, txChecksumWarnings_eq]
  have afterBits := getElem?_encodeItems_afterBits f n
  refine ⟨encodeItems f n, rfl, length_encodeItems f n, rfl, rfl, fun i isBit => getElem?_encodeItems_bit f n i isBit,
    afterBits 0, afterBits 1, afterBits 2, fun q isRepeat => ?_⟩
  have item : ∀ k, k < 6 → (encodeItems f n)[69 + 6 * q + k]? = (waitItems ++ repeatFrameItems ++ waitItems)[k]? :=
    fun _ => getElem?_encodeItems_repeat f isRepeat
  exact ⟨item 0 (by decide), item 1 (by decide), item 2 (by decide), item 3 (by decide), item 4 (by decide),
    item 5 (by decide)⟩

/-- Settles O35: the segments are counted part by part; the gaps are the other items. -/
theorem encodeCountsAndNominalTime : Obligations.EncodeCountsAndNominalTime := by
  intro f n
  have segments := countP_isSegment_encodeItems f n
  have items := length_encodeItems f n
  refine ⟨segments, ?_, items, nominalTime_encodeItems f n⟩
  have parts := List.length_eq_countP_add_countP isSegment (l := encodeItems f n)
  simp only [Bool.not_eq_true, Bool.decide_eq_false] at parts
  omega

/-- Settles O36: SEND branches on what PARSE_HEX reads, and its warnings and items are ENCODE's. -/
theorem sendIsParseThenEncode : Obligations.SendIsParseThenEncode := by
  intro text n s
  refine ⟨fun f l w parses encodes => ?_, fun fails => ?_, ?_⟩
  · obtain ⟨rfl, rfl⟩ := exec_encode_eq_items.1 encodes
    exact exec_send_of_parse_ok (exec_parseHex_eq_frameWord.1 parses) n s
  · obtain ⟨r, failed⟩ := exec_parseHex_eq_encodeError.1 fails
    exact exec_send_of_parse_error failed n s
  · cases answer : parseText text with
    | ok f => exact ⟨true, _, _, exec_send_of_parse_ok answer n s⟩
    | error r => exact ⟨false, [], [], by rw [exec_send_of_parse_error answer, List.append_nil, List.append_nil]⟩

end Sys2Proof.Machine
end

section
/-! SUPPORT. What POLL, DECODE and EDGE do to the block, each by an equation, and the turns of the polling path, the dispatch
collaborator and the carrier driver (spec/43_poll_and_host.md R200 to R206). -/

namespace Sys2Proof.Machine

/-! ### Phase A -/

theorem Block.raiseReady_of_holds {b : Block} {fires : Bool} (holds : b.ready = true ∨ fires = true) :
    b.raiseReady fires = { b with ready := true } := by
  rw [Block.raiseReady, Bool.or_eq_true_iff.2 holds]

theorem Block.raiseReady_false (b : Block) : b.raiseReady false = b := by
  rw [Block.raiseReady, Bool.or_false]

/-- With `ready` set or the time-out firing, phase A goes on to phase B (R200). -/
theorem pollPhaseA_of_goes {nowA : Nat} {s : State}
    (goes : s.block.ready = true ∨ timeoutFires nowA s.block.lastEdgeTime s.block.len = true) (nowB : Nat) :
    pollPhaseA nowA nowB s = (s.withBlock { s.block with ready := true }).setGo (some nowB) := by
  rcases pollPhaseA_cases nowA nowB s with ⟨_, on⟩ | ⟨clear, quiet, _⟩
  · rw [on, Block.raiseReady_of_holds goes]
  · simp [clear, quiet] at goes

/-- With neither, phase A ends the POLL and leaves the block (R200). -/
theorem pollPhaseA_of_ends {nowA : Nat} {s : State} (clear : s.block.ready = false)
    (quiet : timeoutFires nowA s.block.lastEdgeTime s.block.len = false) (nowB : Nat) :
    pollPhaseA nowA nowB s = (s.setGo none).emit [.decodeResult .none] := by
  rcases pollPhaseA_cases nowA nowB s with ⟨goes, _⟩ | ⟨_, _, off⟩
  · simp [clear, quiet] at goes
  · rw [off, quiet, Block.raiseReady_false, State.withBlock]

/-! ### Phase B -/

/-- On the polling path's turn, or with no turn left, the POLL in flight goes on, and that turn is taken off
(log entry 10). -/
theorem step_phaseB {s : State} (inFlight : s.go.isSome = true)
    (turn : s.requests = [] ∨ s.requests.head? = some .resume) :
    step s = pollPhaseB (s.setRequests s.requests.tail) := by
  rcases turn with noTurn | own
  · have same : s.setRequests s.requests.tail = s := by rw [State.setRequests, noTurn, List.tail_nil, ← noTurn]
    rw [same, step, nextTurn, noTurn]
    simp only [inFlight, if_true]
  · obtain ⟨rest, next⟩ := List.head?_eq_some_iff.1 own
    rw [step, nextTurn, next, List.tail_cons]
    simp only [inFlight, if_true]

theorem pollDecode_drains (nowB : Nat) (s : State) :
    (pollDecode nowB s).block.buf = [] ∧ (pollDecode nowB s).block.ready = false ∧ (pollDecode nowB s).go = none := by
  simp [pollDecode, decodeSequence_frame]

/-! ### DECODE and EDGE at one instant

DECODE writes the repeat state alone and reads nothing else of the block; RECORD neither reads nor writes it (R201). -/

/-- The block with another repeat state. -/
def Block.withLast (b : Block) (last : Option LastCommand) : Block := { b with last := last }

@[simp] theorem Block.withLast_buf (b : Block) (last : Option LastCommand) : (b.withLast last).buf = b.buf := rfl
@[simp] theorem Block.withLast_lastEdgeTime (b : Block) (last : Option LastCommand) :
    (b.withLast last).lastEdgeTime = b.lastEdgeTime := rfl
@[simp] theorem Block.stampEdge_withLast (b : Block) (last : Option LastCommand) (t : Nat) :
    (b.withLast last).stampEdge t = (b.stampEdge t).withLast last := rfl
@[simp] theorem Block.clearBuf_withLast (b : Block) (last : Option LastCommand) :
    (b.withLast last).clearBuf = b.clearBuf.withLast last := rfl
@[simp] theorem Block.store_withLast (b : Block) (last : Option LastCommand) (d : Nat) (fires : Bool) :
    (b.withLast last).store d fires = (b.store d fires).withLast last := rfl

/-- The repeat state DECODE leaves (R139, R140). -/
def decodedLast (p : List Nat) (now : Nat) (last : Option LastCommand) : Option LastCommand :=
  match verdict p last now with
  | .command f => some ⟨f, now⟩
  | .repeatFrame => last
  | .none _ => last

theorem decodeSequence_block (p : List Nat) (now : Nat) (s : State) :
    (decodeSequence p now s).block = s.block.withLast (decodedLast p now s.block.last) := by
  unfold decodeSequence decodedLast
  cases verdict p s.block.last now <;> rfl

/-- RECORD carries the repeat state along, and of the state outside the block it reads `IDLE_LEVEL` alone. -/
theorem recordPulse_withLast {s u : State} (idle : u.idleLevel = s.idleLevel) (b : Block) (last : Option LastCommand)
    (d : Nat) (level : Bool) :
    (recordPulse d level (u.withBlock (b.withLast last))).block =
      (recordPulse d level (s.withBlock b)).block.withLast last := by
  by_cases noise : d < 100
  · simp [recordPulse, noise]
  · by_cases full : b.buf.length = 100
    · simp [recordPulse, Block.len, noise, full]
    · simp [recordPulse, Block.len, noise, full, idle]

/-- An EDGE leaves its own instant admitted: it keeps the repeat state and moves the other stamps there. -/
theorem stampNotEarlier_after_edge {t : Nat} {level : Bool} {s u : State} (edge : exec (.edge t level) s = .next u) :
    StampNotEarlier u t := by
  obtain ⟨⟨_, _, command⟩, rfl⟩ := execEdge_eq_next.1 edge
  obtain ⟨edgeTime, last, _, _, clock, _⟩ :=
    recordPulse_frame (t - s.block.lastEdgeTime) level ((s.setClock t).withBlock (s.block.stampEdge t))
  exact ⟨clock.le, edgeTime.le, by rw [last]; exact command⟩

/-! ### Requests of the dispatch collaborator, and of SEND -/

/-- The dispatch collaborator owns no operation: what it may request are its entry points (R203, R231). -/
theorem mayRequest_dispatch (i : Instr) : mayRequest .dispatch i = (entryPoint i).isSome := by
  have ownsNothing : (owner i == some .dispatch) = false := by cases i <;> rfl
  rw [mayRequest, ownsNothing, Bool.or_false]
  rfl

/-- A request by an agent that may not make it stops, unless the POLL in flight comes first (R231, R236). -/
theorem step_request_wrongAgent {s : State} {a : Agent} {w : CodeWord} {i : Instr} {rest : List Turn}
    (next : s.requests = .request a w :: rest) (decoded : decode w = .ok i) (first : pollComesFirst s i = false)
    (forbidden : mayRequest a i = false) : step s = .refused (.wrongAgent a) := by
  rw [step, nextTurn_request next decoded]
  simp [requestTurn, first, forbidden]

/-- A request of SEND stops while an earlier list is played (R205). -/
theorem step_request_driverBusy {s : State} {a : Agent} {w : CodeWord} {i : Instr} {rest : List Turn}
    (next : s.requests = .request a w :: rest) (decoded : decode w = .ok i) (first : pollComesFirst s i = false)
    (allowed : mayRequest a i = true) (overlaps : sendOverlaps s i = true) : step s = .refused .driverBusy := by
  rw [step, nextTurn_request next decoded]
  simp [requestTurn, first, allowed, overlaps]

/-- Who may request SEND: the transmit path, which owns it, the dispatch collaborator and the harness (R203, R231). -/
theorem mayRequest_send {a : Agent} (agent : a = .transmit ∨ a = .dispatch ∨ a = .harness) (code : SendCode) (n : Nat) :
    mayRequest a (.send code n) = true := by
  rcases agent with rfl | rfl | rfl
  · exact mayRequest_of_harness_or_owner (.inr rfl)
  · rw [mayRequest_dispatch, entryPoint_isSome_iff]
    exact .inr ⟨code, n, rfl⟩
  · exact mayRequest_of_harness_or_owner (.inl rfl)

theorem step_itemPlayed {s : State} {rest : List Turn} (next : s.requests = .itemPlayed :: rest) :
    step s = .next ((s.setPlaying s.playing.tail).setRequests rest) := by
  simp only [step, nextTurn, next]

end Sys2Proof.Machine
end

section
/-! PROOFS. The statements of spec/43_poll_and_host.md. -/

namespace Sys2Proof.Machine

/-- Settles O27: with both stamps in order phase A runs, and it goes on to phase B exactly on the condition stated. -/
theorem pollPhaseAChecksTimeoutThenReady : Obligations.PollPhaseAChecksTimeoutThenReady := by
  intro nowA nowB s ordered admitted
  rw [← timeoutFires_iff, Bool.not_eq_true]
  refine ⟨fun goes => execPoll_eq_next.2 ⟨ordered, admitted, ?_⟩,
    fun clear quiet => execPoll_eq_next.2 ⟨ordered, admitted, ?_⟩⟩
  · exact pollPhaseA_of_goes (s := s.setClock nowA) goes nowB
  · exact pollPhaseA_of_ends (s := s.setClock nowA) clear quiet nowB

/-- Settles O29: the step is phase B with the turn taken off, and phase B is DECODE on the drained state. -/
theorem pollPhaseBDecodesTheSnapshot : Obligations.PollPhaseBDecodesTheSnapshot := by
  intro s nowB inFlight admitted turn
  have after : StampNotEarlier (s.setRequests s.requests.tail) nowB := admitted
  obtain ⟨buf, ready, go⟩ := pollDecode_drains nowB ((s.setRequests s.requests.tail).setClock nowB)
  exact ⟨_, (step_phaseB (Option.isSome_of_eq_some inFlight) turn).trans (pollPhaseB_of_notEarlier inFlight after),
    exec_decode_drained after, buf, ready, go, pollDecode_requests nowB _⟩

/-- Settles O30: in both orders the block is what EDGE makes of it, with the repeat state DECODE makes of the old one. -/
theorem decodeCommutesWithEdge : Obligations.DecodeCommutesWithEdge := by
  intro p t level s a b decodes edge
  obtain ⟨admitted, rfl⟩ := atStamp_eq_next.1 decodes
  obtain ⟨_, rfl⟩ := execEdge_eq_next.1 edge
  have edgeFirst := execEdge_eq_next (level := level).2 ⟨admitted, rfl⟩
  refine ⟨_, _, edgeFirst, atStamp_eq_next.2 ⟨stampNotEarlier_after_edge edgeFirst, rfl⟩, ?_⟩
  obtain ⟨_, _, _, _, idle, _⟩ := decodeSequence_frame p t (s.setClock t)
  obtain ⟨_, last, _⟩ :=
    recordPulse_frame (t - s.block.lastEdgeTime) level ((s.setClock t).withBlock (s.block.stampEdge t))
  rw [decodeSequence_block, State.setClock_block, last, decodeSequence_block, Block.stampEdge_withLast,
    Block.withLast_lastEdgeTime, recordPulse_withLast (s := s.setClock t)]
  · rfl
  · exact idle

/-- Settles O37: a frame word is its own parse, so SEND takes the branch in which it replies with ENCODE's items. -/
theorem sendOfAFrameAlwaysSucceeds : Obligations.SendOfAFrameAlwaysSucceeds := by
  intro f n s
  refine ⟨_, _, exec_encode f n s, txChecksumWarnings_eq f, length_encodeItems f n, ?_⟩
  exact execSend_of_ok (code := .frame f) rfl n s

/-- Settles O55: with nothing in flight and nothing played, only the agent can hold a request back, and the dispatch
collaborator may request its entry points alone. -/
theorem dispatchHasExactlyTwoEntryPoints : Obligations.DispatchHasExactlyTwoEntryPoints := by
  intro s w i rest decoded noneInFlight silent
  have first : pollComesFirst s i = false := pollComesFirst_eq_false.2 (.inl noneInFlight)
  have free : sendOverlaps s i = false := sendOverlaps_eq_false.2 (.inr silent)
  refine ⟨fun next => ⟨fun entry => ?_, fun notPoll notSend => ?_⟩, fun next =>
    step_request_run next decoded first rfl free⟩
  · have allowed : mayRequest .dispatch i = true := (mayRequest_dispatch i).trans ((entryPoint_isSome_iff i).2 entry)
    exact step_request_run next decoded first allowed free
  · have noEntry : ¬ (entryPoint i).isSome = true := by
      rw [entryPoint_isSome_iff]
      rintro (⟨nowA, nowB, poll⟩ | ⟨code, n, send⟩)
      · exact notPoll nowA nowB poll
      · exact notSend code n send
    have forbidden : mayRequest .dispatch i = false := (mayRequest_dispatch i).trans (Bool.eq_false_iff.2 noEntry)
    exact step_request_wrongAgent next decoded first forbidden

/-- Settles O28: the order of the two stamps is tested before phase A. -/
theorem pollWithStampsOutOfOrderIsRefused : Obligations.PollWithStampsOutOfOrderIsRefused := fun _ _ _ disordered =>
  if_neg disordered.not_ge

/-- Settles O56: the request is one its agent may make and no POLL holds it back, so the driver is what refuses it. -/
theorem secondSendWaitsForTheDriver : Obligations.SecondSendWaitsForTheDriver := by
  intro s a w code n rest next decoded agent busy
  exact step_request_driverBusy next decoded (pollComesFirst_eq_false.2 (.inr nofun)) (mayRequest_send agent code n)
    ((sendOverlaps_iff _ _).2 ⟨⟨code, n, rfl⟩, busy⟩)

/-- Settles O57: the driver's turn takes off the head of what it has still to play. -/
theorem driverPlaysItemsInOrder : Obligations.DriverPlaysItemsInOrder := by
  intro s x l rest next playing
  rw [step_itemPlayed next, playing]
  rfl

end Sys2Proof.Machine
end

section
/-! SUPPORT. When an instruction meets the clock premise and what `exec` answers in either case, and which agents may not request
an instruction (spec/60_exceptions.md R220, R231, R236). -/

namespace Sys2Proof.Machine

/-! ### The clock premise of an instruction -/

theorem meetsClockPremise_of_no_stamp {i : Instr} (s : State) (unstamped : instrStamp i = none) :
    MeetsClockPremise i s := by
  refine ⟨fun t stamp => ?_, fun nowA nowB poll => ?_⟩
  · exact nomatch unstamped.symm.trans stamp
  · subst poll
    cases unstamped

theorem meetsClockPremise_of_stamp {i : Instr} {s : State} {t : Nat} (stamp : instrStamp i = some t)
    (notPoll : ∀ nowA nowB, i ≠ .poll nowA nowB) (admitted : StampNotEarlier s t) : MeetsClockPremise i s := by
  refine ⟨fun u given => ?_, fun nowA nowB poll => absurd poll (notPoll nowA nowB)⟩
  obtain rfl : t = u := Option.some.inj (stamp.symm.trans given)
  exact admitted

theorem meetsClockPremise_poll {nowA nowB : Nat} {s : State} :
    MeetsClockPremise (.poll nowA nowB) s ↔ nowA ≤ nowB ∧ StampNotEarlier s nowA := by
  refine ⟨fun ⟨admitted, ordered⟩ => ⟨ordered _ _ rfl, admitted _ rfl⟩, fun ⟨ordered, admitted⟩ => ⟨?_, ?_⟩⟩
  · rintro _ ⟨⟩
    exact admitted
  · rintro _ _ ⟨⟩
    exact ordered

theorem not_stampNotEarlier {s : State} {t : Nat}
    (earlier : t < s.clock ∨ t < s.block.lastEdgeTime ∨ ∃ l, s.block.last = some l ∧ t < l.time) :
    ¬ StampNotEarlier s t := by
  rintro ⟨clock, edgeTime, command⟩
  rcases earlier with beforeClock | beforeEdge | ⟨l, held, beforeCommand⟩
  · exact clock.not_gt beforeClock
  · exact edgeTime.not_gt beforeEdge
  · exact (command l held).not_gt beforeCommand

/-! ### What `exec` answers, by the clock premise -/

theorem execPoll_of_breaks {nowA nowB : Nat} {s : State} (breaks : ¬ MeetsClockPremise (.poll nowA nowB) s) :
    execPoll nowA nowB s = .refused .clockNotMonotone := by
  rw [meetsClockPremise_poll, not_and] at breaks
  by_cases ordered : nowA ≤ nowB
  · exact (if_pos ordered).trans (atStamp_of_earlier (breaks ordered) _)
  · exact if_neg ordered

/-- With the premise met, each stamped operation runs on its stamp, and everything else runs from every state (R236). -/
theorem exec_of_meetsClockPremise {i : Instr} {s : State} (meets : MeetsClockPremise i s) : ∃ t, exec i s = .next t := by
  obtain ⟨admitted, ordered⟩ := meets
  cases i with
  | reset t | edge t _ | timeoutCheck t | decode _ t =>
    simp [exec, execReset, execEdge, execTimeoutCheck, execDecode, atStamp_of_notEarlier (admitted t rfl)]
  | poll nowA nowB => exact ⟨_, execPoll_eq_next.2 ⟨ordered nowA nowB rfl, admitted nowA rfl, rfl⟩⟩
  | rxStandardFrame p =>
    obtain ⟨evs, reports⟩ := execRxStandardFrame_reports p s
    exact ⟨_, reports⟩
  | _ => exact ⟨_, rfl⟩

/-- An instruction can break the premise only by a stamp, and each stamped operation tests its own (R220). -/
theorem exec_of_breaks {i : Instr} {s : State} (breaks : ¬ MeetsClockPremise i s) :
    exec i s = .refused .clockNotMonotone := by
  cases i with
  | reset t | edge t _ | timeoutCheck t | decode _ t =>
    have earlier : ¬ StampNotEarlier s t := fun admitted => breaks (meetsClockPremise_of_stamp rfl nofun admitted)
    simp only [exec, execReset, execEdge, execTimeoutCheck, execDecode, atStamp_of_earlier earlier]
  | poll nowA nowB => exact execPoll_of_breaks breaks
  | _ => exact absurd (meetsClockPremise_of_no_stamp s rfl) breaks

theorem exec_of_stamp_earlier {i : Instr} {s : State} {t : Nat} (stamp : instrStamp i = some t)
    (earlier : ¬ StampNotEarlier s t) : exec i s = .refused .clockNotMonotone :=
  exec_of_breaks fun ⟨admitted, _⟩ => earlier (admitted t stamp)

/-! ### Requests by the wrong agent -/

/-- Beside the harness and the dispatch collaborator, an agent may request only what it owns (R231). -/
theorem mayRequest_eq_false_of_not_owner {a : Agent} {i : Instr} (notOwner : owner i ≠ some a) (notHarness : a ≠ .harness)
    (notDispatch : a ≠ .dispatch) : mayRequest a i = false := by
  simp [mayRequest, notOwner, notHarness, notDispatch]

end Sys2Proof.Machine
end

section
/-! PROOFS. The statements of spec/60_exceptions.md. -/

namespace Sys2Proof.Machine

/-- Settles O5: every stamp is admitted, and nothing but a stamp can keep `exec` from a next state. -/
theorem everyInstructionCompletesOnMonotoneClock : Obligations.EveryInstructionCompletesOnMonotoneClock := fun _ _ =>
  exec_of_meetsClockPremise

/-- Settles O6: each of the three ways to be too early breaks the premise of all five stamped operations. -/
theorem stampBeforeTheClockIsRefused : Obligations.StampBeforeTheClockIsRefused := by
  intro t u level p s early
  have earlier : ¬ StampNotEarlier s t := not_stampNotEarlier early
  exact ⟨exec_of_stamp_earlier rfl earlier, exec_of_stamp_earlier rfl earlier, exec_of_stamp_earlier rfl earlier,
    exec_of_stamp_earlier rfl earlier, exec_of_stamp_earlier rfl earlier⟩

/-- Settles O7: with the premise met `exec` answers a next state, with it broken the one refusal of the premise. -/
theorem onlyTheClockPremiseStopsAnInstruction : Obligations.OnlyTheClockPremiseStopsAnInstruction := by
  refine fun i s => ⟨nofun, fun r refused => ?_⟩
  by_cases meets : MeetsClockPremise i s
  · obtain ⟨t, completes⟩ := exec_of_meetsClockPremise meets
    exact nomatch completes.symm.trans refused
  · obtain ⟨⟩ := (exec_of_breaks meets).symm.trans refused
    exact ⟨rfl, meets⟩

/-- Settles O46: each cause row is a `report` of its cause with the two columns of the table. -/
theorem causeRowsReportTheirLine : Obligations.CauseRowsReportTheirLine := fun _ =>
  ⟨report_eq_next.2 rfl, report_eq_next.2 rfl, report_eq_next.2 rfl, report_eq_next.2 rfl⟩

/-- Settles O54: no POLL comes first, so the request is stopped for its agent. -/
theorem requestByTheWrongAgentIsRefused : Obligations.RequestByTheWrongAgentIsRefused := by
  intro s a w i rest next decoded first notOwner notHarness notDispatch
  exact step_request_wrongAgent next decoded (pollComesFirst_eq_false.2 first)
    (mayRequest_eq_false_of_not_owner notOwner notHarness notDispatch)

end Sys2Proof.Machine
end

section
/-! SUPPORT. What RESET does outside the block (spec/70_reset_and_hazards.md R250). -/

namespace Sys2Proof.Machine

/-- RESET ends a POLL in flight and leaves what the driver plays (R250; log entry 11). -/
theorem exec_reset_go_playing {t0 : Nat} {s t : State} (reset : exec (.reset t0) s = .next t) :
    t.go = none ∧ t.playing = s.playing := by
  obtain ⟨_, rfl⟩ := execReset_eq_next.1 reset
  exact ⟨rfl, rfl⟩

end Sys2Proof.Machine
end

section
/-! PROOFS. The statements of spec/70_reset_and_hazards.md. -/

namespace Sys2Proof.Machine

/-- Settles O2: with no POLL in flight and no overlap nothing holds the request back (O51), and as taking its turn off leaves every
stamp, the instruction completes (O5). -/
theorem afterResetEveryInstructionIsAccepted : Obligations.AfterResetEveryInstructionIsAccepted := by
  intro t0 s t w i rest reset decoded meets free
  obtain ⟨ended, plays⟩ := exec_reset_go_playing reset
  rw [← plays] at free
  obtain ⟨u, completes⟩ := everyInstructionCompletesOnMonotoneClock i (t.setRequests rest) meets
  have runs := stepRunsTheDecodedInstruction (t.setRequests (.request .harness w :: rest)) .harness w i rest rfl decoded
    (.inl ended) free (.inl rfl)
  exact ⟨u, runs.trans completes, completes⟩

end Sys2Proof.Machine
end
